-- ==== Sys2Proof/Word.lean ====
section
/-! DEFINITION. The widths of the engine's values (spec 00_scope R6, R7): unsigned bit vectors, bit 0 least
significant. -/

namespace Sys2Proof

/-- One byte, `bits8`: the bus data width and the CHK width (00_scope R6). -/
abbrev Byte := BitVec 8

/-- The CRC register's width, `bits16` (00_scope R6 `CRC_WIDTH`). -/
abbrev CrcWord := BitVec 16

/-- One transaction word `T[11:0]` (30_encoding R36). -/
abbrev TxnWord := BitVec 12

/-- A register offset, the field `A` (30_encoding R36). -/
abbrev Offset := BitVec 3

end Sys2Proof
end

