-- ==== Sys2Proof/Syntax.lean ====
section
/-! DEFINITION. The engine's transactions (spec 30_encoding R38), the names of its registers (10_state section 2) and
the reasons a word is refused for (60_exceptions R80). -/

namespace Sys2Proof

/-- The nine legal transactions, one constructor per row of the opcode table (30_encoding R38). A write carries its
data byte `D`; a read carries nothing, since the engine ignores its `D` field (30_encoding R37). -/
inductive Instr where
  /-- WR CTRL: clear one or both channels (42_control_status R65). -/
  | wrCtrl (d : Byte)
  /-- WR CRCIN: feed one byte to the CRC channel (40_crc R47). -/
  | wrCrcin (d : Byte)
  /-- WR CRCHI: replace the high byte of `crc` (40_crc R48). -/
  | wrCrchi (d : Byte)
  /-- WR CRCLO: replace the low byte of `crc` (40_crc R49). -/
  | wrCrclo (d : Byte)
  /-- WR CHKIN: add one byte into `sum` (41_chk R59). -/
  | wrChkin (d : Byte)
  /-- RD CRCHI: read the high byte of `crc` (40_crc R50). -/
  | rdCrchi
  /-- RD CRCLO: read the low byte of `crc` (40_crc R51). -/
  | rdCrclo
  /-- RD CHKOUT: read the two's complement of `sum` (41_chk R60). -/
  | rdChkout
  /-- RD STAT: read the two zero flags (42_control_status R66). -/
  | rdStat
deriving DecidableEq, Repr

/-- The seven named registers (10_state section 2). Offset 7 has no name. -/
inductive Register where
  | ctrl | crcin | crchi | crclo | chkin | chkout | stat
deriving DecidableEq, Repr

/-- Why a reserved word `t` is refused (60_exceptions R80). -/
inductive RefusalReason where
  /-- `A = 7`. -/
  | reservedOffset (t : TxnWord)
  /-- A read of CTRL, CRCIN or CHKIN, or a write of CHKOUT or STAT. -/
  | wrongDirection (t : TxnWord)
  /-- A write of CTRL with `D[7:2]` not zero. -/
  | reservedCtrlBits (t : TxnWord)
deriving DecidableEq, Repr

end Sys2Proof
end

