-- ==== Sys2Proof/WellFormed.lean ====
section
/-! DEFINITION. Which terms of `Instr` the encoding can spell (spec 30_encoding R38, R39). -/

namespace Sys2Proof

/-- Bits 7:2 of a CTRL write must be 0 (10_state R18). -/
def ctrlReservedClear (d : Byte) : Bool := d &&& 0xFC#8 == 0#8

/-- The one restriction on an operand: `D[7:2] = 0` for WR CTRL (42_control_status R65). Every other data byte is legal
(40_crc R47 to R49, 41_chk R59). -/
def Instr.wellFormed : Instr → Bool
  | .wrCtrl d => ctrlReservedClear d
  | .wrCrcin _ => true
  | .wrCrchi _ => true
  | .wrCrclo _ => true
  | .wrChkin _ => true
  | .rdCrchi => true
  | .rdCrclo => true
  | .rdChkout => true
  | .rdStat => true

end Sys2Proof
end

