-- ==== Sys2Proof/Decode.lean ====
section
/-! DEFINITION. The decoder, total on every 12-bit word (spec 30_encoding R36 to R41), and after it the encoder. A
transaction is one word on the bus, not bytes in a memory, so there is no byte order to lay it out in (log entry 13). -/

namespace Sys2Proof

/-- `T[11]`: true for a write (30_encoding R36). -/
def fieldW (t : TxnWord) : Bool := t.getLsbD 11

/-- `T[10:8]`: the register offset (30_encoding R36). -/
def fieldA (t : TxnWord) : Offset := t.extractLsb' 8 3

/-- `T[7:0]`: the data byte (30_encoding R36). -/
def fieldD (t : TxnWord) : Byte := t.extractLsb' 0 8

/-- The offset of a register (10_state section 2). -/
def Register.offset : Register → Offset
  | .ctrl => 0#3
  | .crcin => 1#3
  | .crchi => 2#3
  | .crclo => 3#3
  | .chkin => 4#3
  | .chkout => 5#3
  | .stat => 6#3

/-- The access column of the register map (10_state section 2): may be read. -/
def Register.readable : Register → Bool
  | .ctrl => false
  | .crcin => false
  | .crchi => true
  | .crclo => true
  | .chkin => false
  | .chkout => true
  | .stat => true

/-- The access column of the register map (10_state section 2): may be written. -/
def Register.writable : Register → Bool
  | .ctrl => true
  | .crcin => true
  | .crchi => true
  | .crclo => true
  | .chkin => true
  | .chkout => false
  | .stat => false

/-- The register at an offset; none at the reserved offset 7 (10_state R22). -/
def registerAt (a : Offset) : Option Register :=
  match a.toNat with
  | 0 => some .ctrl
  | 1 => some .crcin
  | 2 => some .crchi
  | 3 => some .crclo
  | 4 => some .chkin
  | 5 => some .chkout
  | 6 => some .stat
  | _ => none

/-- One row of the opcode map (30_encoding R38): a word `t` is the row's transaction when `t AND mask = value`. -/
structure OpcodeRow where
  value : TxnWord
  mask : TxnWord
  /-- The transaction, from the word's data byte. -/
  build : Byte → Instr

/-- The opcode map of 30_encoding R38, row by row. -/
def opcodeRows : List OpcodeRow :=
  [ ⟨0x800#12, 0xFFC#12, .wrCtrl⟩,
    ⟨0x900#12, 0xF00#12, .wrCrcin⟩,
    ⟨0xA00#12, 0xF00#12, .wrCrchi⟩,
    ⟨0xB00#12, 0xF00#12, .wrCrclo⟩,
    ⟨0xC00#12, 0xF00#12, .wrChkin⟩,
    ⟨0x200#12, 0xF00#12, fun _ => .rdCrchi⟩,
    ⟨0x300#12, 0xF00#12, fun _ => .rdCrclo⟩,
    ⟨0x500#12, 0xF00#12, fun _ => .rdChkout⟩,
    ⟨0x600#12, 0xF00#12, fun _ => .rdStat⟩ ]

/-- Whether a word belongs to a row (30_encoding R38). -/
def OpcodeRow.matches (r : OpcodeRow) (t : TxnWord) : Bool := t &&& r.mask == r.value

/-- Whether the register at an offset may be accessed in a word's direction (10_state section 2). -/
def directionLegal (write : Bool) (r : Register) : Bool := if write then r.writable else r.readable

/-- The one reason a reserved word is refused for, in the order of 60_exceptions R81. -/
def refusalReason (t : TxnWord) : RefusalReason :=
  match registerAt (fieldA t) with
  | none => .reservedOffset t
  | some r => if directionLegal (fieldW t) r then .reservedCtrlBits t else .wrongDirection t

/-- Decoding (30_encoding R40): the row the word matches, or its refusal. -/
def decode (t : TxnWord) : Except RefusalReason Instr :=
  match opcodeRows.find? (fun r => r.matches t) with
  | some r => .ok (r.build (fieldD t))
  | none => .error (refusalReason t)

/-- `{W, A, D}` as one word (30_encoding R36). -/
def assembleWord (w : BitVec 1) (a : Offset) (d : Byte) : TxnWord := w ++ a ++ d

/-- The host's `BusWrite(A, D)` (00_scope R8) as a word. -/
def busWriteWord (r : Register) (d : Byte) : TxnWord := assembleWord 1#1 r.offset d

/-- The host's `BusRead(A)` (00_scope R8) as a word, in the canonical spelling `D = 0x00` (30_encoding R37). -/
def busReadWord (r : Register) : TxnWord := assembleWord 0#1 r.offset 0x00#8

/-- The word of a transaction (30_encoding R36, R38); for a read, the canonical one. -/
def encode : Instr → TxnWord
  | .wrCtrl d => busWriteWord .ctrl d
  | .wrCrcin d => busWriteWord .crcin d
  | .wrCrchi d => busWriteWord .crchi d
  | .wrCrclo d => busWriteWord .crclo d
  | .wrChkin d => busWriteWord .chkin d
  | .rdCrchi => busReadWord .crchi
  | .rdCrclo => busReadWord .crclo
  | .rdChkout => busReadWord .chkout
  | .rdStat => busReadWord .stat

/-- The same transaction with the bits the decoder ignores at 0: a read's data byte (30_encoding R37). -/
def canonicalWord (t : TxnWord) : TxnWord := if fieldW t then t else t &&& 0xF00#12

/-- What an instruction whose bits are `w`, as the opcode table numbers them, puts on the bus. The table's rows have
12 bits; of the whole bytes that hold them, bits 15 to 12 are no part of a transaction word. -/
def tableWord (nbits w : Nat) : TxnWord := BitVec.ofNat 12 (w % 2 ^ nbits)

/-- The decoder, asked for the opcode table's bits. A number with a bit set above bit 11 is no transaction word. -/
def decodeTableWord (nbits w : Nat) : Option Instr :=
  if w % 2 ^ nbits < 2 ^ 12 then
    match decode (tableWord nbits w) with
    | .ok i => some i
    | .error _ => none
  else none

end Sys2Proof
end

