-- ==== Sys2Proof/Machine/Operands.lean ====
section
/-! DEFINITION. How a transaction's data byte is used (spec 30_encoding R37) and the bytes of `crc` (10_state R20). -/

namespace Sys2Proof.Machine

/-- `crc[15:8]` (10_state R20). -/
def hiByte (c : CrcWord) : Byte := c.extractLsb' 8 8

/-- `crc[7:0]` (10_state R20). -/
def loByte (c : CrcWord) : Byte := c.extractLsb' 0 8

/-- `{hi, lo}` (00_scope R7). -/
def joinBytes (hi lo : Byte) : CrcWord := hi ++ lo

/-- `zext_16(D) << 8`: how WR CRCIN uses its byte (30_encoding R37). -/
def crcOperand (d : Byte) : CrcWord := d.setWidth 16 <<< 8

/-- CRCCLR, bit 0 of a CTRL write (10_state R18). -/
def crcClr (d : Byte) : Bool := d.getLsbD 0

/-- CHKCLR, bit 1 of a CTRL write (10_state R18). -/
def chkClr (d : Byte) : Bool := d.getLsbD 1

end Sys2Proof.Machine
end

