-- ==== Sys2Proof/Config.lean ====
section
/-! DEFINITION. The engine's parameters (spec 00_scope R3, R6) and what the spec leaves open as an uninterpreted
constant: nothing in Lean can evaluate an `opaque` below or prove a value of it. -/

namespace Sys2Proof.Config

/-- `CRC_POLY`, x^16 + x^12 + x^5 + 1 (00_scope R6). -/
def crcPoly : CrcWord := 0x1021#16

/-- `CRC_INIT` (00_scope R6): the start value of a message, and what a clear and a reset store. -/
def crcInit : CrcWord := 0x0000#16

/-- `CRC_XOROUT` (00_scope R6): nothing is XORed into a CRC as it is read out (40_crc R46, R50, R51). -/
def crcXorOut : CrcWord := 0x0000#16

/-- What a clear of the CHK channel and a reset store in `sum` (42_control_status R65, 70_reset_and_hazards R90). -/
def sumInit : Byte := 0x00#8

/-- `CRC_REFIN` (00_scope R6): input bytes are not reflected; Machine.crcStep takes bit 7 first. -/
def crcRefIn : Bool := false

/-- `CRC_REFOUT` (00_scope R6): the CRC is not reflected as it is read out. -/
def crcRefOut : Bool := false

/-- The spec's label of the block (00_scope R3, D1); no transaction can read it (42_control_status R67). -/
def identifier : String := "efm8-ckeng"

/-- The spec's label of the interface revision (00_scope R3, D1). -/
def interfaceRevision : String := "v1-spec"

/-- The spec's label of the two functions (00_scope R3, D1). -/
def crcVariant : String := "CRC16-XMODEM+CHK8-TWOS"

/-- The confirmation byte of an accepted frame (45_composite_sequences R76). -/
def confirmed : Byte := 64#8

/-- Payload bytes of a full page frame (45_composite_sequences R69, R72). -/
def pageSize : Nat := 128

/-- Erase block size: a page at a multiple of it is erased (45_composite_sequences R72). -/
def eraseBlock : Nat := 512

/-- Bytes of a frame in one report (45_composite_sequences R69). -/
def chunkSize : Nat := 64

/-- `T_TXN`, the time of one transaction: OPEN, no rule depends on it (00_scope R6, 70_reset_and_hazards R95, U5;
log entry 4). -/
opaque tTxn : Nat

/-- Whether the HEX decoder checks the checksum of a record that is not a data record, by the record's type, so that EOF
and type-04 records are open each on its own: not in the source (91_not_in_source N8; log entry 7). The engine's own
answer does not depend on it. -/
opaque checksNonDataRecords : Byte → Bool

/-- Which of the 255 bytes other than 64 the device returns for a VERIFY that fails, by the number of frames sent before
and the frame: "any other value is a failure" (45_composite_sequences R76; log entry 9). Machine.failedConfirmation is the
byte. -/
opaque failureIndex : Nat → List Byte → Fin 255

/-- What the device returns for a frame whose answer the spec does not give: one that is no VERIFY, or a VERIFY that a host
refuses to send (45_composite_sequences R71, R76; 91_not_in_source N6; log entries 8 and 9). -/
opaque openConfirmation : Nat → List Byte → Byte

end Sys2Proof.Config
end

