-- ==== Sys2Proof/Machine/State.lean ====
section
/-! DEFINITION. The machine's state (spec 10_state R10 to R17), its reset value (70_reset_and_hazards R90), and why a step
can stop (60_exceptions R78, R80). -/

namespace Sys2Proof.Machine

/-- What the host does next on the engine's interface. -/
inductive HostEvent where
  /-- A transaction word put on the bus (30_encoding R36). -/
  | transaction (t : TxnWord)
  /-- The reset input asserted between two transactions (70_reset_and_hazards R90). -/
  | resetInput
deriving DecidableEq, Repr

/-- The engine's two state elements, then the host's side of the bus. -/
structure State where
  /-- The CRC channel's register (10_state R11). -/
  crc : CrcWord
  /-- The CHK channel's accumulator: the raw sum (10_state R12). -/
  sum : Byte
  /-- MODEL's field, the host's: what the host has still to issue, in order (10_state R16; log entry 1). -/
  pending : List HostEvent
  /-- MODEL's field, the host's: the position of the next transaction, counted from 0 (10_state R16). -/
  index : Nat
  /-- MODEL's field, the host's: the bytes `R` read transactions have returned, oldest first (30_encoding R36; log
  entry 2). -/
  returned : List Byte
deriving DecidableEq, Repr

/-- The engine raises no exception (60_exceptions R78), has no trap and no fault address: nothing raises a fault, so
this type has no constructor. Safe: no claim can rest on a fault that cannot be. -/
inductive Fault
deriving DecidableEq, Repr

/-- Why the model stops. -/
inductive Refusal where
  /-- `Refused(reason, index)` of 60_exceptions R80, raised by the step on a reserved word and by WR CTRL on reserved
  bits: the word has no meaning. Safe: the model claims nothing of a program that issues one. -/
  | reserved (reason : RefusalReason) (index : Nat)
  /-- An instruction the model gives no meaning; raised by an arm of `exec` only, and no arm raises it. Safe. -/
  | notModelled (mnemonic : String)
deriving DecidableEq, Repr

/-- The machine right after the reset event (70_reset_and_hazards R90), with nothing issued yet: the index of the first
transaction is 0 (10_state R16), and the host's two lists are empty (log entries 1 and 2). -/
def State.reset : State where
  crc := Config.crcInit
  sum := Config.sumInit
  pending := []
  index := 0
  returned := []

end Sys2Proof.Machine
end

