-- ==== Sys2Proof/Machine/Ops.lean ====
section
/-! DEFINITION. The named operations: the two functions of the engine (spec 40_crc R45, R46; 41_chk R57), reads and writes
of its two state elements, the reset event, the refusal, and the host's next event. The engine raises no exception and
has no exception entry or return (60_exceptions R78, R84), so none is here. -/

namespace Sys2Proof.Machine

/-- One bit of 40_crc R45: shift left, and XOR the polynomial in when bit 15 was set. -/
def crcShift (c : CrcWord) : CrcWord :=
  if c.getLsbD 15 then (c <<< 1) ^^^ Config.crcPoly else c <<< 1

/-- `n` repetitions of `crcShift` (40_crc R45 "repeat 8 times"). -/
def crcShifts : Nat → CrcWord → CrcWord
  | 0, c => c
  | n + 1, c => crcShifts n (crcShift c)

/-- `crc_step(c, b)` (40_crc R45). -/
def crcStep (c : CrcWord) (b : Byte) : CrcWord := crcShifts 8 (c ^^^ crcOperand b)

/-- The CRC register after a message is fed from a start value (40_crc R46, R55, R56). -/
def crcFeed (c : CrcWord) (message : List Byte) : CrcWord := message.foldl crcStep c

/-- `crc16(bytes)`, a big-endian pair (40_crc R46). -/
def crc16 (message : List Byte) : Byte × Byte :=
  let c := crcFeed Config.crcInit message
  (hiByte c, loByte c)

/-- `twos8(v)` (41_chk R57): the subtraction on integers, then `mod 256`. -/
def twos8 (v : Byte) : Byte := BitVec.ofInt 8 (((v &&& 0x80#8).toNat : Int) - ((v &&& 0x7F#8).toNat : Int))

/-- `sum` after a message is added from a start value (41_chk R61). -/
def sumFeed (v : Byte) (message : List Byte) : Byte := message.foldl (· + ·) v

/-- `crc <- v` (00_scope R8). -/
def State.setCrc (s : State) (v : CrcWord) : State := { s with crc := v }

/-- `sum <- v` (00_scope R8). -/
def State.setSum (s : State) (v : Byte) : State := { s with sum := v }

/-- `R <- v`: a read hands a byte to the host; the engine's state does not change (30_encoding R36, 20_memory R30). -/
def State.respond (s : State) (v : Byte) : State := { s with returned := s.returned ++ [v] }

/-- The CRC clear, when its flag is set (42_control_status R65). -/
def State.clearCrcIf (s : State) (flag : Bool) : State := if flag then s.setCrc Config.crcInit else s

/-- The CHK clear, when its flag is set (42_control_status R65). -/
def State.clearSumIf (s : State) (flag : Bool) : State := if flag then s.setSum Config.sumInit else s

/-- The host's event is done with. -/
def State.popEvent (s : State) : State := { s with pending := s.pending.tail }

/-- A transaction is done with: the index of the next one is 1 higher (10_state R16). -/
def State.advance (s : State) : State := { s.popEvent with index := s.index + 1 }

/-- The reset event (70_reset_and_hazards R90): both channels take their clear values. It is no transaction, so the index
stays (log entry 14). -/
def State.takeReset (s : State) : State := (s.popEvent.setCrc Config.crcInit).setSum Config.sumInit

/-- The machine at power-up, before any reset: the two values are draws (70_reset_and_hazards R89; log entry 3). -/
def State.powerUp (crcDraw : CrcWord) (sumDraw : Byte) : State :=
  { State.reset with crc := crcDraw, sum := sumDraw }

/-- The host has a program to issue: its words follow what is pending (10_state R16; log entry 1). -/
def State.issue (s : State) (words : List TxnWord) : State :=
  { s with pending := s.pending ++ words.map .transaction }

/-- `refuse(reason)` (00_scope R8): the model stops with `Refused(reason, index)` (60_exceptions R80). -/
def refuse (why : RefusalReason) (s : State) : Host.Outcome State Fault Refusal := .refused (.reserved why s.index)

/-- The state of an outcome changed, where there is one. -/
def onNext (f : State → State) : Host.Outcome State Fault Refusal → Host.Outcome State Fault Refusal
  | .next s => .next (f s)
  | .fault r => .fault r
  | .refused r => .refused r

end Sys2Proof.Machine
end

