-- ==== Sys2Proof/Machine/ChkChannel.lean ====
section
/-! DEFINITION. The CHK channel's transactions (spec 41_chk R59, R60). None raises an exception, and every data byte is
legal. The flag CHKZ follows `sum` (10_state R14). -/

namespace Sys2Proof.Machine

/-- WR CHKIN (41_chk R59): the carry out of bit 7 is discarded. -/
def execWrChkin (d : Byte) (s : State) : Host.Outcome State Fault Refusal :=
  .next (s.setSum (s.sum + d))

/-- RD CHKOUT (41_chk R60). -/
def execRdChkout (s : State) : Host.Outcome State Fault Refusal :=
  .next (s.respond (twos8 s.sum))

end Sys2Proof.Machine
end

