-- ==== Sys2Proof/Machine/Flags.lean ====
section
/-! DEFINITION. The status flags: combinational functions of the state, with no storage (spec 10_state R14). -/

namespace Sys2Proof.Machine

/-- CRCZ (10_state R14). -/
def crcz (s : State) : Bool := s.crc == 0x0000#16

/-- CHKZ (10_state R14). -/
def chkz (s : State) : Bool := s.sum == 0x00#8

/-- The byte STAT reads: `{000000, CHKZ, CRCZ}` (10_state R22, 42_control_status R66). -/
def statByte (s : State) : Byte := 0#6 ++ BitVec.ofBool (chkz s) ++ BitVec.ofBool (crcz s)

end Sys2Proof.Machine
end

