-- ==== Sys2Proof/Machine/ControlStatus.lean ====
section
/-! DEFINITION. The control and status transactions (spec 42_control_status R65, R66). -/

namespace Sys2Proof.Machine

/-- WR CTRL (42_control_status R65): refused whole when a reserved bit is set, else both clears in one step. -/
def execWrCtrl (d : Byte) (s : State) : Host.Outcome State Fault Refusal :=
  if ctrlReservedClear d then .next ((s.clearCrcIf (crcClr d)).clearSumIf (chkClr d))
  else refuse (.reservedCtrlBits (encode (.wrCtrl d))) s

/-- RD STAT (42_control_status R66). -/
def execRdStat (s : State) : Host.Outcome State Fault Refusal :=
  .next (s.respond (statByte s))

end Sys2Proof.Machine
end

