-- ==== Sys2Proof/Machine/CrcChannel.lean ====
section
/-! DEFINITION. The CRC channel's transactions (spec 40_crc R47 to R51). None raises an exception, and every data byte is
legal. The flag CRCZ follows `crc` (10_state R14). -/

namespace Sys2Proof.Machine

/-- WR CRCIN (40_crc R47). -/
def execWrCrcin (d : Byte) (s : State) : Host.Outcome State Fault Refusal :=
  .next (s.setCrc (crcStep s.crc d))

/-- WR CRCHI (40_crc R48). -/
def execWrCrchi (d : Byte) (s : State) : Host.Outcome State Fault Refusal :=
  .next (s.setCrc (joinBytes d (loByte s.crc)))

/-- WR CRCLO (40_crc R49). -/
def execWrCrclo (d : Byte) (s : State) : Host.Outcome State Fault Refusal :=
  .next (s.setCrc (joinBytes (hiByte s.crc) d))

/-- RD CRCHI (40_crc R50). -/
def execRdCrchi (s : State) : Host.Outcome State Fault Refusal :=
  .next (s.respond (hiByte s.crc))

/-- RD CRCLO (40_crc R51). -/
def execRdCrclo (s : State) : Host.Outcome State Fault Refusal :=
  .next (s.respond (loByte s.crc))

end Sys2Proof.Machine
end

