-- ==== Sys2Proof/Machine/Dispatch.lean ====
section
/-! DEFINITION. Which meaning each transaction has: one arm per constructor. -/

namespace Sys2Proof.Machine

/-- The effect of one transaction on the engine (spec 30_encoding R38, the rule column). -/
def exec (i : Instr) (s : State) : Host.Outcome State Fault Refusal :=
  match i with
  | .wrCtrl d => Sys2Proof.Machine.execWrCtrl d s
  | .wrCrcin d => Sys2Proof.Machine.execWrCrcin d s
  | .wrCrchi d => Sys2Proof.Machine.execWrCrchi d s
  | .wrCrclo d => Sys2Proof.Machine.execWrCrclo d s
  | .wrChkin d => Sys2Proof.Machine.execWrChkin d s
  | .rdCrchi => Sys2Proof.Machine.execRdCrchi s
  | .rdCrclo => Sys2Proof.Machine.execRdCrclo s
  | .rdChkout => Sys2Proof.Machine.execRdChkout s
  | .rdStat => Sys2Proof.Machine.execRdStat s

end Sys2Proof.Machine
end

