-- ==== Sys2Proof/Machine/Step.lean ====
section
/-! DEFINITION. One step: the host's next event is performed (spec 20_memory R31). -/

namespace Sys2Proof.Machine

/-- One event of the host. With none pending the engine waits and keeps its state (log entry 1); the reset input is taken
between transactions (70_reset_and_hazards R90); a transaction is decoded and performed, or refused with its index
(60_exceptions R80). -/
def step (s : State) : Host.Outcome State Fault Refusal :=
  match s.pending with
  | [] => .next s
  | .resetInput :: _ => .next s.takeReset
  | .transaction t :: _ =>
    match decode t with
    | .ok i => onNext State.advance (exec i s)
    | .error why => refuse why s

/-- The host issues the opcode table's word `w` next: it is put before everything pending (log entry 1). -/
def State.withFetchWord (s : State) (nbits w : Nat) : State :=
  { s with pending := .transaction (tableWord nbits w) :: s.pending }

end Sys2Proof.Machine
end

