-- ==== Sys2Proof/Machine/Assembler.lean ====
section
/-! DEFINITION. The assembly form of a program (spec 30_encoding R42 to R44): lines, pseudo-instructions and their
expansions, the reader of a text line, and the listing. Text is a list of characters. What R42 does not say (letter case,
blank lines, line numbers) is log entry 10. -/

namespace Sys2Proof.Machine

/-- One line of assembly. A number is as the line spells it, in or out of range. -/
inductive AsmLine where
  /-- `WR <reg>, <imm8>` (30_encoding R42). -/
  | wr (r : Register) (imm : Nat)
  /-- `RD <reg>` (30_encoding R42). -/
  | rd (r : Register)
  /-- The pseudo-instructions of 30_encoding R43. -/
  | crcrst
  | chkrst
  | rst
  | crcseed (imm : Nat)
  | crcfeed (bytes : List Nat)
  | chkfeed (bytes : List Nat)
  | crcget
deriving DecidableEq, Repr

/-- Why the transcriber refuses a line, by name and line (30_encoding R44). -/
inductive AsmError where
  /-- The line names a register in the wrong direction. -/
  | wrongDirection (line : Nat) (r : Register)
  /-- An immediate outside its range. -/
  | immediateOutOfRange (line : Nat) (value : Nat)
  /-- The line is none of the forms of 30_encoding R42 and R43. -/
  | notALine (line : Nat)
deriving DecidableEq, Repr

/-- A number as a byte, refused outside 0 to 255 (30_encoding R42, R44). -/
def asmByte (line n : Nat) : Except AsmError Byte :=
  if n < 256 then .ok (BitVec.ofNat 8 n) else .error (.immediateOutOfRange line n)

/-- A list of numbers as bytes; the first one out of range is refused. -/
def asmBytes (line : Nat) : List Nat → Except AsmError (List Byte)
  | [] => .ok []
  | n :: ns =>
    match asmByte line n, asmBytes line ns with
    | .error e, _ => .error e
    | .ok _, .error e => .error e
    | .ok b, .ok bs => .ok (b :: bs)

/-- `CRCRST` (30_encoding R43). -/
def crcRst : List Instr := [.wrCtrl 0x01#8]

/-- `CHKRST` (30_encoding R43). -/
def chkRst : List Instr := [.wrCtrl 0x02#8]

/-- `RST` (30_encoding R43). -/
def rstBoth : List Instr := [.wrCtrl 0x03#8]

/-- `CRCSEED <imm16>` (30_encoding R43). -/
def crcSeed (v : CrcWord) : List Instr := [.wrCrchi (hiByte v), .wrCrclo (loByte v)]

/-- `CRCFEED b0, ..., bn` (30_encoding R43). -/
def crcFeedSeq (message : List Byte) : List Instr := message.map .wrCrcin

/-- `CHKFEED b0, ..., bn` (30_encoding R43). -/
def chkFeedSeq (message : List Byte) : List Instr := message.map .wrChkin

/-- `CRCGET` (30_encoding R43): the high byte first. -/
def crcGet : List Instr := [.rdCrchi, .rdCrclo]

/-- The words of a line (30_encoding R42, R43), or its refusal (R44). `WR CTRL` with a reserved bit set is a line of R42
whose word is reserved: the word is issued, and the engine refuses it (R39). DESIGN CHOICE (log entry 10): of a line wrong
in both ways, such as `WR CHKOUT, 300`, the direction is reported; R44 does not say which. -/
def AsmLine.words (line : Nat) : AsmLine → Except AsmError (List TxnWord)
  | .wr r imm =>
    if r.writable then (asmByte line imm).map (fun b => [busWriteWord r b]) else .error (.wrongDirection line r)
  | .rd r => if r.readable then .ok [busReadWord r] else .error (.wrongDirection line r)
  | .crcrst => .ok (crcRst.map encode)
  | .chkrst => .ok (chkRst.map encode)
  | .rst => .ok (rstBoth.map encode)
  | .crcseed imm =>
    if imm < 65536 then .ok ((crcSeed (BitVec.ofNat 16 imm)).map encode) else .error (.immediateOutOfRange line imm)
  | .crcfeed ns => (asmBytes line ns).map (fun bs => (crcFeedSeq bs).map encode)
  | .chkfeed ns => (asmBytes line ns).map (fun bs => (chkFeedSeq bs).map encode)
  | .crcget => .ok (crcGet.map encode)

/-- What a text line is made of. -/
inductive AsmToken where
  | comma
  | word (cs : List Char)
deriving DecidableEq, Repr

/-- The word read so far, last character first, as a token. -/
def flushWord : List Char → List AsmToken
  | [] => []
  | c :: cs => [.word (c :: cs).reverse]

/-- A line cut into words and commas; `;` begins a comment (30_encoding R42). -/
def tokensFrom : List Char → List Char → List AsmToken
  | [], acc => flushWord acc
  | c :: cs, acc =>
    if c = ';' then flushWord acc
    else if c = ',' then flushWord acc ++ .comma :: tokensFrom cs []
    else if c = ' ' ∨ c = '\t' then flushWord acc ++ tokensFrom cs []
    else tokensFrom cs (c :: acc)

/-- The value of one digit in a base up to 16. -/
def digitValue (base : Nat) (c : Char) : Option Nat :=
  let n := c.toNat
  let v := if 48 ≤ n ∧ n ≤ 57 then n - 48
    else if 65 ≤ n ∧ n ≤ 70 then n - 55
    else if 97 ≤ n ∧ n ≤ 102 then n - 87
    else base
  if v < base then some v else none

/-- Digits after a value already read. -/
def digitsValue (base : Nat) : Nat → List Char → Option Nat
  | acc, [] => some acc
  | acc, c :: cs =>
    match digitValue base c with
    | some v => digitsValue base (acc * base + v) cs
    | none => none

/-- A number in decimal or `0x` hexadecimal (30_encoding R42). -/
def numberOf : List Char → Option Nat
  | [] => none
  | '0' :: 'x' :: c :: cs => digitsValue 16 0 (c :: cs)
  | cs => digitsValue 10 0 cs

/-- The register a name spells (10_state section 2). -/
def registerNamed (cs : List Char) : Option Register :=
  if cs = "CTRL".toList then some .ctrl
  else if cs = "CRCIN".toList then some .crcin
  else if cs = "CRCHI".toList then some .crchi
  else if cs = "CRCLO".toList then some .crclo
  else if cs = "CHKIN".toList then some .chkin
  else if cs = "CHKOUT".toList then some .chkout
  else if cs = "STAT".toList then some .stat
  else none

/-- Numbers with a comma between each two. -/
def operandList : List AsmToken → Option (List Nat)
  | [.word w] => (numberOf w).map (fun n => [n])
  | .word w :: .comma :: rest =>
    match numberOf w, operandList rest with
    | some n, some ns => some (n :: ns)
    | _, _ => none
  | _ => none

/-- The line that a first word and the tokens after it spell (30_encoding R42, R43). -/
def lineOf (head : List Char) (rest : List AsmToken) : Option AsmLine :=
  if head = "WR".toList then
    match rest with
    | [.word r, .comma, .word n] =>
      match registerNamed r, numberOf n with
      | some reg, some imm => some (.wr reg imm)
      | _, _ => none
    | _ => none
  else if head = "RD".toList then
    match rest with
    | [.word r] => (registerNamed r).map .rd
    | _ => none
  else if head = "CRCSEED".toList then
    match rest with
    | [.word n] => (numberOf n).map .crcseed
    | _ => none
  else if head = "CRCFEED".toList then (operandList rest).map .crcfeed
  else if head = "CHKFEED".toList then (operandList rest).map .chkfeed
  else if rest ≠ [] then none
  else if head = "CRCRST".toList then some .crcrst
  else if head = "CHKRST".toList then some .chkrst
  else if head = "RST".toList then some .rst
  else if head = "CRCGET".toList then some .crcget
  else none

/-- The words of one text line: none for a line that is blank or all comment. -/
def assembleLine (line : Nat) (text : List Char) : Except AsmError (List TxnWord) :=
  match tokensFrom text [] with
  | [] => .ok []
  | .comma :: _ => .error (.notALine line)
  | .word head :: rest =>
    match lineOf head rest with
    | some l => l.words line
    | none => .error (.notALine line)

/-- The words of the lines from line number `line` on, in order; the first refused line stops the transcriber. -/
def assembleFrom : Nat → List (List Char) → Except AsmError (List TxnWord)
  | _, [] => .ok []
  | line, text :: texts =>
    match assembleLine line text with
    | .error e => .error e
    | .ok ws =>
      match assembleFrom (line + 1) texts with
      | .error e => .error e
      | .ok more => .ok (ws ++ more)

/-- A program given as assembly lines (30_encoding R44), numbered from 1. -/
def assemble (lines : List (List Char)) : Except AsmError (List TxnWord) := assembleFrom 1 lines

/-- One hexadecimal digit, a capital letter from ten on. -/
def hexDigit (n : Nat) : Char := if n < 10 then Char.ofNat (48 + n) else Char.ofNat (55 + n)

/-- A word in a program's listing: three hexadecimal digits (30_encoding R42). -/
def listing (t : TxnWord) : List Char :=
  [hexDigit (t.toNat / 256), hexDigit (t.toNat / 16 % 16), hexDigit (t.toNat % 16)]

/-- A byte as two hexadecimal digits. -/
def hexByte (b : Byte) : List Char := [hexDigit (b.toNat / 16), hexDigit (b.toNat % 16)]

end Sys2Proof.Machine
end

