-- ==== Sys2Proof/Machine/Sequences.lean ====
section
/-! DEFINITION. What the host software does with the engine (spec 45_composite_sequences R68 to R77, 60_exceptions R82):
transaction sequences, the Intel HEX line checksum, bootloader frames, the VERIFY CRC, and the read-back search. The
engine's own behaviour is in the other files; nothing here is a step of it. -/

namespace Sys2Proof.Machine

/-- The errors of the host software (60_exceptions R82); the engine raises none of them (R79). -/
inductive HostError where
  /-- Empty, non-HEX, non-linear or segmented input. -/
  | unsupportedInput
  /-- A HEX line checksum fails, or the VERIFY frame is not confirmed. -/
  | checksumMismatch
  /-- A frame other than VERIFY is not confirmed. -/
  | unconfirmedResponse
  /-- No candidate of the read-back search is confirmed. -/
  | noPossibleMatch
deriving DecidableEq, Repr

/-- Why a host program ends before its end. -/
inductive HostStop where
  /-- It raises an error of the host software (60_exceptions R82). -/
  | raised (e : HostError)
  /-- It refuses to send a VERIFY frame whose range is no range of the flash (93_implementation_defined U6). -/
  | refusesToSend (f : List Byte)
deriving DecidableEq, Repr

/-- Transactions performed one after another, stopping at the first that does not complete (20_memory R31). -/
def perform : List Instr → State → Host.Outcome State Fault Refusal
  | [], s => .next s
  | i :: is, s =>
    match exec i s with
    | .next t => perform is t
    | .fault r => .fault r
    | .refused r => .refused r

/-- The bytes that a sequence returns to the host, where it completes. -/
def bytesReturned (is : List Instr) (s : State) : Option (List Byte) :=
  match perform is { s with returned := [] } with
  | .next t => some t.returned
  | .fault _ => none
  | .refused _ => none

/-- `crc16_on_engine(bytes)` (45_composite_sequences R77). -/
def crc16OnEngine (message : List Byte) : List Instr := crcRst ++ crcFeedSeq message ++ crcGet

/-- `twos8(v)` with the engine (41_chk R63). -/
def twos8OnEngine (v : Byte) : List Instr := chkRst ++ [.wrChkin v, .rdChkout]

/-! ### Intel HEX records -/

/-- An Intel HEX record `:LLAAAATT<data><CC>` (45_composite_sequences R68). -/
structure HexRecord where
  count : Byte
  address : BitVec 16
  kind : Byte
  payload : List Byte
  checksum : Byte
deriving DecidableEq, Repr

/-- `LL` counts the payload's bytes (45_composite_sequences R68). -/
def HexRecord.wellFormed (r : HexRecord) : Bool := r.count.toNat == r.payload.length

/-- Every byte of a record before its checksum (45_composite_sequences R68). -/
def HexRecord.preceding (r : HexRecord) : List Byte :=
  [r.count, hiByte r.address, loByte r.address, r.kind] ++ r.payload

/-- The check of a record by RD CHKOUT (45_composite_sequences R68). -/
def hexCheckSeq (r : HexRecord) : List Instr := chkRst ++ chkFeedSeq r.preceding ++ [.rdChkout]

/-- The check of a record by CHKZ, its checksum byte added too (45_composite_sequences R68). -/
def hexResidueSeq (r : HexRecord) : List Instr := chkRst ++ chkFeedSeq (r.preceding ++ [r.checksum]) ++ [.rdStat]

/-- `ok` of 45_composite_sequences R68: the byte the engine returns is the record's checksum. -/
def hexRecordOk (r : HexRecord) (s : State) : Bool := bytesReturned (hexCheckSeq r) s == some [r.checksum]

/-- `ok` by the equivalent test of 45_composite_sequences R68: bit 1 of STAT. -/
def hexResidueOk (r : HexRecord) (s : State) : Bool :=
  match bytesReturned (hexResidueSeq r) s with
  | some [b] => b.getLsbD 1
  | _ => false

/-- Whether a record type is one the decoder takes: data, EOF, or extended linear address with value zero
(45_composite_sequences R68; U2: another value is refused). Type 02 is segmented input, which 60_exceptions R82 names. DESIGN
CHOICE (log entry 20): every type that no rule names (03, 05 and the rest) is refused as unsupported too, not skipped. DESIGN
CHOICE (log entry 22): the value of a type-04 record is zero only as the two bytes 00 00 that R75 writes, so a payload of any
other length is refused, zero bytes or not. -/
def HexRecord.supported (r : HexRecord) : Bool :=
  r.kind == 0x00#8 || r.kind == 0x01#8 || (r.kind == 0x04#8 && r.payload == [0x00#8, 0x00#8])

/-- What the decoder raises on a record (45_composite_sequences R68, 60_exceptions R82). A data record is checked; whether
another one is, the source does not say (91_not_in_source N8; log entry 7). DESIGN CHOICE: of a record that is both
unsupported and wrong in its checksum, UnsupportedInput is raised (log entry 18); a record whose `LL` differs from its
number of payload bytes raises nothing of its own, so it is taken where its checksum fits (log entry 19); and a record is
judged alone and as its fields, so that no address makes it non-linear input and no text makes it non-HEX input, and
neither raises anything (log entry 21). The spec gives none of these. -/
def hexRecordError (r : HexRecord) (s : State) : Option HostError :=
  if !r.supported then some .unsupportedInput
  else if (r.kind == 0x00#8 || Config.checksNonDataRecords r.kind) && !hexRecordOk r s then some .checksumMismatch
  else none

/-- A record with the checksum that its bytes need (45_composite_sequences R68, R75). -/
def hexRecordOf (kind : Byte) (address : BitVec 16) (payload : List Byte) : HexRecord :=
  let r : HexRecord := ⟨BitVec.ofNat 8 payload.length, address, kind, payload, 0x00#8⟩
  { r with checksum := twos8 (sumFeed Config.sumInit r.preceding) }

/-- A record's text (45_composite_sequences R68). -/
def HexRecord.text (r : HexRecord) : List Char := ':' :: (r.preceding ++ [r.checksum]).flatMap hexByte

/-- A list cut into pieces of `size`, with as much fuel as it has members. -/
def piecesFuel (size : Nat) : Nat → List Byte → List (List Byte)
  | 0, _ => []
  | _ + 1, [] => []
  | fuel + 1, b :: bs => (b :: bs).take size :: piecesFuel size fuel ((b :: bs).drop size)

/-- A list cut into pieces of `size`, the last one maybe shorter. -/
def pieces (size : Nat) (bytes : List Byte) : List (List Byte) := piecesFuel size bytes.length bytes

/-- Data records of consecutive pieces from an address on. -/
def dataRecords : Nat → List (List Byte) → List HexRecord
  | _, [] => []
  | a, p :: ps => hexRecordOf 0x00#8 (BitVec.ofNat 16 a) p :: dataRecords (a + p.length) ps

/-- The encoder's output: the extended-linear-address-zero directive, 16-byte data records, the EOF record
(45_composite_sequences R75; a shorter last record: log entry 12). -/
def hexOutput (image : List Byte) : List HexRecord :=
  hexRecordOf 0x04#8 0x0000#16 [0x00#8, 0x00#8] :: dataRecords 0 (pieces 16 image) ++
    [hexRecordOf 0x01#8 0x0000#16 []]

/-! ### Bootloader frames -/

/-- The bootloader's commands (45_composite_sequences R69). -/
inductive Command where
  | setup | erase | write | verify | run
deriving DecidableEq, Repr

/-- A command's byte (45_composite_sequences R69). -/
def Command.code : Command → Byte
  | .setup => 0x31#8
  | .erase => 0x32#8
  | .write => 0x33#8
  | .verify => 0x34#8
  | .run => 0x36#8

/-- A frame `['$', length, command, …payload]` (45_composite_sequences R69). -/
def frame (c : Command) (payload : List Byte) : List Byte :=
  0x24#8 :: BitVec.ofNat 8 (payload.length + 1) :: c.code :: payload

/-- A frame as the device gets it: chunks of 64 bytes, each after a zero report id (45_composite_sequences R69; a short
last chunk is left as it is: log entry 11). -/
def reports (f : List Byte) : List (List Byte) := (pieces Config.chunkSize f).map (0x00#8 :: ·)

/-- An image with byte 0 replaced by 0xFF (45_composite_sequences R70). -/
def deferredImage (image : List Byte) : List Byte := image.set 0 0xFF#8

/-- The VERIFY frame's CRC by the engine (45_composite_sequences R70). -/
def verifyCrcSeq (image : List Byte) : List Instr := crc16OnEngine (deferredImage image)

/-- The payload of a VERIFY of the bytes `first` to `last`, both included (45_composite_sequences R71). -/
def verifyPayload (first last : BitVec 16) (crc : Byte × Byte) : List Byte :=
  [hiByte first, loByte first, hiByte last, loByte last, crc.1, crc.2]

/-- The VERIFY frame of an image (45_composite_sequences R70). -/
def verifyFrame (image : List Byte) : List Byte :=
  frame .verify (verifyPayload 0x0000#16 (BitVec.ofNat 16 (image.length - 1)) (crc16 (deferredImage image)))

/-- The page frame at an address: ERASE exactly at a multiple of the erase block (45_composite_sequences R72). -/
def pageFrame (a : Nat) (page : List Byte) : List Byte :=
  frame (if a % Config.eraseBlock = 0 then .erase else .write)
    (hiByte (BitVec.ofNat 16 a) :: loByte (BitVec.ofNat 16 a) :: page)

/-- The page frames of consecutive pages from an address on. -/
def pageFrames : Nat → List (List Byte) → List (List Byte)
  | _, [] => []
  | a, p :: ps => pageFrame a p :: pageFrames (a + Config.pageSize) ps

/-- The SETUP frame (45_composite_sequences R69). -/
def setupFrame : List Byte := frame .setup [0xA5#8, 0xF1#8, 0x00#8]

/-- The commit WRITE that restores byte 0 (45_composite_sequences R72). -/
def commitFrame (trueByte0 : Byte) : List Byte := frame .write [0x00#8, 0x00#8, trueByte0]

/-- The RUN frame (45_composite_sequences R69). -/
def runFrame : List Byte := frame .run [0x00#8, 0x00#8]

/-- The frames for an image (45_composite_sequences R72): none for an image that is empty (R70 asks for `L > 0`) or that
16-bit addresses do not reach (log entry 11). -/
def toFrames (image : List Byte) (verify autorun : Bool) : Option (List (List Byte)) :=
  match image with
  | [] => none
  | b :: bs =>
    if 65536 < (b :: bs).length then none
    else some ([setupFrame] ++ pageFrames 0 (pieces Config.pageSize (deferredImage (b :: bs))) ++
      (if verify then [verifyFrame (b :: bs)] else []) ++ [commitFrame b] ++ (if autorun then [runFrame] else []))

/-! ### The device's VERIFY and the host's use of its answers -/

/-- `MemRead(addr, n)` (00_scope R8) of a memory given as its bytes from address 0; none past its end. -/
def memRead (memory : List Byte) (addr n : Nat) : Option (List Byte) :=
  if addr + n ≤ memory.length then some ((memory.drop addr).take n) else none

/-- The device's VERIFY by the engine: the range, then both CRC bytes read (45_composite_sequences R71). -/
def deviceVerifySeq (range : List Byte) : List Instr := crc16OnEngine range

/-- The device's VERIFY by the residue: the range, the supplied CRC, then CRCZ (45_composite_sequences R71). -/
def deviceResidueSeq (range : List Byte) (crc : Byte × Byte) : List Instr :=
  crcRst ++ crcFeedSeq (range ++ [crc.1, crc.2]) ++ [.rdStat]

/-- Whether the device confirms a VERIFY payload over its flash (45_composite_sequences R71). None where the source says
nothing: `start > end`, past the flash, or no VERIFY payload (U6; log entry 8). -/
def deviceConfirms (flash : List Byte) (payload : List Byte) : Option Bool :=
  match payload with
  | [sh, sl, eh, el, ch, cl] =>
    let first := (joinBytes sh sl).toNat
    let last := (joinBytes eh el).toNat
    if first ≤ last then (memRead flash first (last + 1 - first)).map (fun range => crc16 range == (ch, cl)) else none
  | _ => none

/-- The byte a device returns for a VERIFY that fails: some byte other than 64, and any such byte
(45_composite_sequences R76; log entry 9). -/
def failedConfirmation (sent : Nat) (f : List Byte) : Byte :=
  let k := (Config.failureIndex sent f).val
  BitVec.ofNat 8 (if k < Config.confirmed.toNat then k else k + 1)

/-- The device's verdict on a frame, where it is a VERIFY frame whose verdict the spec gives (45_composite_sequences R69,
R71). -/
def verifyVerdict (flash : List Byte) (f : List Byte) : Option Bool :=
  if f = frame .verify (f.drop 3) then deviceConfirms flash (f.drop 3) else none

/-- Whether a host sends a frame to a device with so many bytes of flash: not a VERIFY with `start > end`, one that runs past
the end of flash, or one with no range to it (93_implementation_defined U6; log entry 8). -/
def sendable (flashSize : Nat) (f : List Byte) : Bool :=
  if f[2]? = some Command.verify.code then
    match f.drop 3 with
    | [sh, sl, eh, el, _, _] =>
      decide ((joinBytes sh sl).toNat ≤ (joinBytes eh el).toNat) && decide ((joinBytes eh el).toNat < flashSize)
    | _ => false
  else true

/-- The channel to a device: the confirmation byte it returns for a frame, given how many frames were sent before
(45_composite_sequences R76; log entry 9). -/
abbrev Channel := Nat → List Byte → Byte

/-- The channel to a device that holds a flash: it confirms a VERIFY with 64 exactly when the range has the supplied CRC
(45_composite_sequences R71, R76). Every answer the spec does not give is a free value (log entry 9). -/
def deviceChannel (flash : List Byte) : Channel := fun sent f =>
  match verifyVerdict flash f with
  | some true => Config.confirmed
  | some false => failedConfirmation sent f
  | none => Config.openConfirmation sent f

/-- Frames sent in order; the first that is not confirmed stops the driver and nothing is retried
(45_composite_sequences R76), and a VERIFY that is no range of the flash is not sent (U6). With the stop, how many frames
were sent. -/
def sendFrames (flashSize : Nat) (channel : Channel) : Nat → List (List Byte) → Except HostStop Unit × Nat
  | sent, [] => (.ok (), sent)
  | sent, f :: fs =>
    if !sendable flashSize f then (.error (.refusesToSend f), sent)
    else if channel sent f = Config.confirmed then sendFrames flashSize channel (sent + 1) fs
    else
      (.error (.raised (if f[2]? = some Command.verify.code then .checksumMismatch else .unconfirmedResponse)), sent + 1)

/-- The flash driver over an image (45_composite_sequences R72, R76; 60_exceptions R82), for a device with so many bytes of
flash. -/
def flashImage (flashSize : Nat) (channel : Channel) (image : List Byte) (verify autorun : Bool) :
    Except HostStop Unit × Nat :=
  match toFrames image verify autorun with
  | none => (.error (.raised .unsupportedInput), 0)
  | some fs => sendFrames flashSize channel 0 fs

/-- The VERIFY frame for candidate `k` at address `a` (45_composite_sequences R73). -/
def candidateFrame (a : BitVec 16) (k : Byte) : List Byte := frame .verify (verifyPayload a a (crc16 [k]))

/-- All 256 candidates, ascending (45_composite_sequences R73). -/
def candidates : List Byte := (List.range 256).map (BitVec.ofNat 8)

/-- The search through a list of candidates: the first confirmed one is taken (45_composite_sequences R73); a frame for an
address past the flash is not sent (U6). With the result, how many frames were sent. -/
def searchCandidates (flashSize : Nat) (channel : Channel) (a : BitVec 16) : Nat → List Byte → Except HostStop Byte × Nat
  | sent, [] => (.error (.raised .noPossibleMatch), sent)
  | sent, k :: ks =>
    if !sendable flashSize (candidateFrame a k) then (.error (.refusesToSend (candidateFrame a k)), sent)
    else if channel sent (candidateFrame a k) = Config.confirmed then (.ok k, sent + 1)
    else searchCandidates flashSize channel a (sent + 1) ks

/-- The read-back of one byte (45_composite_sequences R73). -/
def readBackByte (flashSize : Nat) (channel : Channel) (a : BitVec 16) (sent : Nat) : Except HostStop Byte × Nat :=
  searchCandidates flashSize channel a sent candidates

/-- The read-back of `n` bytes from an address on; the first byte with no match stops it (45_composite_sequences R73).
DESIGN CHOICE (log entry 17): the address after 0xFFFF is 0x0000; the spec does not say. -/
def readBack (flashSize : Nat) (channel : Channel) (a : BitVec 16) : Nat → Nat → Except HostStop (List Byte) × Nat
  | sent, 0 => (.ok [], sent)
  | sent, n + 1 =>
    match readBackByte flashSize channel a sent with
    | (.error e, tries) => (.error e, tries)
    | (.ok b, tries) =>
      match readBack flashSize channel (a + 1#16) tries n with
      | (.error e, total) => (.error e, total)
      | (.ok bs, total) => (.ok (b :: bs), total)

end Sys2Proof.Machine
end

