-- ==== Sys2Proof/Safety.lean ====
section
/-! DEFINITION. The terms in which statements speak of runs: a run, what it did to each channel since that channel's last
clear (spec 10_state R11, R12), and the polynomial a value stands for (40_crc R54, R55). None of it is a part of the
machine. -/

namespace Sys2Proof.Safety

open Sys2Proof.Machine

/-- `n` steps, stopping at the first fault or refusal (60_exceptions R80: no later transaction can mask it). -/
def run : Nat → State → Host.Outcome State Fault Refusal
  | 0, s => .next s
  | n + 1, s =>
    match step s with
    | .next t => run n t
    | .fault r => .fault r
    | .refused r => .refused r

/-- The register fields alone: the engine's two state elements (10_state R10). -/
def engineOf (s : State) : CrcWord × Byte := (s.crc, s.sum)

/-- A channel's history: the value it was last set to, and the bytes fed since (00_scope R9 "Message"). -/
structure History (α : Type) where
  start : α
  fed : List Byte
deriving DecidableEq, Repr

/-- The value of `crc` that a history stands for (10_state R11, 40_crc R46, R56). -/
def crcValue (h : History CrcWord) : CrcWord := crcFeed h.start h.fed

/-- The value of `sum` that a history stands for: an exact sum, then `mod 256` (10_state R12, 41_chk R61). -/
def sumValue (h : History Byte) : Byte := BitVec.ofNat 8 (h.start.toNat + (h.fed.map BitVec.toNat).sum)

/-- What one transaction does to the CRC channel's history (10_state R11: "exactly these transactions write `crc`"). -/
def crcRecord (h : History CrcWord) : Instr → History CrcWord
  | .wrCtrl d => if d.getLsbD 0 then ⟨0x0000#16, []⟩ else h
  | .wrCrcin d => ⟨h.start, h.fed ++ [d]⟩
  | .wrCrchi d => ⟨joinBytes d (loByte (crcValue h)), []⟩
  | .wrCrclo d => ⟨joinBytes (hiByte (crcValue h)) d, []⟩
  | .wrChkin _ => h
  | .rdCrchi => h
  | .rdCrclo => h
  | .rdChkout => h
  | .rdStat => h

/-- What one transaction does to the CHK channel's history (10_state R12: "exactly these transactions write `sum`"). -/
def sumRecord (h : History Byte) : Instr → History Byte
  | .wrCtrl d => if d.getLsbD 1 then ⟨0x00#8, []⟩ else h
  | .wrCrcin _ => h
  | .wrCrchi _ => h
  | .wrCrclo _ => h
  | .wrChkin d => ⟨h.start, h.fed ++ [d]⟩
  | .rdCrchi => h
  | .rdCrclo => h
  | .rdChkout => h
  | .rdStat => h

/-- The byte a transaction returns when the channels hold `c` and `v` (40_crc R50, R51; 41_chk R58, R60;
42_control_status R66); none for a write. -/
def answerOf (c : CrcWord) (v : Byte) : Instr → List Byte
  | .wrCtrl _ => []
  | .wrCrcin _ => []
  | .wrCrchi _ => []
  | .wrCrclo _ => []
  | .wrChkin _ => []
  | .rdCrchi => [BitVec.ofNat 8 (c.toNat / 256)]
  | .rdCrclo => [BitVec.ofNat 8 (c.toNat % 256)]
  | .rdChkout => [BitVec.ofNat 8 (256 - v.toNat)]
  | .rdStat => [BitVec.ofNat 8 ((if v = 0x00#8 then 2 else 0) + (if c = 0x0000#16 then 1 else 0))]

/-- What a run knows of the engine: both histories, the bytes returned and the transactions counted. -/
structure Account where
  crcLog : History CrcWord
  sumLog : History Byte
  answers : List Byte
  count : Nat
deriving DecidableEq, Repr

/-- The account of a run that starts from a state's channel values, before any event. -/
def accountAt (s : State) : Account := ⟨⟨s.crc, []⟩, ⟨s.sum, []⟩, s.returned, s.index⟩

/-- The account after one more host event. A reserved word has no account: the run stops before it. -/
def Account.event (a : Account) : HostEvent → Account
  | .resetInput => { a with crcLog := ⟨0x0000#16, []⟩, sumLog := ⟨0x00#8, []⟩ }
  | .transaction t =>
    match decode t with
    | .error _ => a
    | .ok i =>
      ⟨crcRecord a.crcLog i, sumRecord a.sumLog i, a.answers ++ answerOf (crcValue a.crcLog) (sumValue a.sumLog) i,
        a.count + 1⟩

/-- Whether a host event is one the engine performs: the reset input, or a legal word (30_encoding R38). -/
def eventLegal : HostEvent → Bool
  | .resetInput => true
  | .transaction t =>
    match decode t with
    | .ok _ => true
    | .error _ => false

/-- `s` is reached from `s0` by performing the first events that `s0` had pending: the rest is pending still, each
performed event was legal, and `s` is what the account of those events says (10_state R11, R12, R16; 20_memory R31). -/
def AccountsFor (s0 s : State) : Prop :=
  ∃ done : List HostEvent,
    s0.pending = done ++ s.pending ∧ (∀ e ∈ done, eventLegal e = true) ∧
    s.crc = crcValue (done.foldl Account.event (accountAt s0)).crcLog ∧
    s.sum = sumValue (done.foldl Account.event (accountAt s0)).sumLog ∧
    s.returned = (done.foldl Account.event (accountAt s0)).answers ∧
    s.index = (done.foldl Account.event (accountAt s0)).count

/-- The transactions that read or write `crc`, a CTRL write with CRCCLR among them (10_state R11). -/
def touchesCrc : Instr → Bool
  | .wrCtrl d => d.getLsbD 0
  | .wrCrcin _ => true
  | .wrCrchi _ => true
  | .wrCrclo _ => true
  | .wrChkin _ => false
  | .rdCrchi => true
  | .rdCrclo => true
  | .rdChkout => false
  | .rdStat => false

/-- The transactions that read or write `sum`, a CTRL write with CHKCLR among them (10_state R12). -/
def touchesChk : Instr → Bool
  | .wrCtrl d => d.getLsbD 1
  | .wrCrcin _ => false
  | .wrCrchi _ => false
  | .wrCrclo _ => false
  | .wrChkin _ => true
  | .rdCrchi => false
  | .rdCrclo => false
  | .rdChkout => true
  | .rdStat => false

/-- The transactions that return a byte (30_encoding R36). -/
def isRead : Instr → Bool
  | .wrCtrl _ => false
  | .wrCrcin _ => false
  | .wrCrchi _ => false
  | .wrCrclo _ => false
  | .wrChkin _ => false
  | .rdCrchi => true
  | .rdCrclo => true
  | .rdChkout => true
  | .rdStat => true

/-- One bit into the CRC register, the form that takes a message bit by bit: the bit is compared with bit 15 as it
leaves (20_memory R26). -/
def crcBit (c : CrcWord) (bit : Bool) : CrcWord :=
  if c.getLsbD 15 ^^ bit then (c <<< 1) ^^^ 0x1021#16 else c <<< 1

/-- A byte's bits, bit 7 first and bit 0 last (20_memory R26). -/
def bitsMsbFirst (b : Byte) : List Bool :=
  [b.getLsbD 7, b.getLsbD 6, b.getLsbD 5, b.getLsbD 4, b.getLsbD 3, b.getLsbD 2, b.getLsbD 1, b.getLsbD 0]

/-- The polynomial over GF(2) whose coefficient of x^i is bit i (40_crc R54, R55). -/
noncomputable def gf2Poly {n : Nat} (v : BitVec n) : Polynomial (ZMod 2) :=
  ∑ i ∈ Finset.range n, if v.getLsbD i then Polynomial.X ^ i else 0

/-- `P(x)` = x^16 + x^12 + x^5 + 1 (00_scope R6). -/
noncomputable def crcModulus : Polynomial (ZMod 2) :=
  Polynomial.X ^ 16 + Polynomial.X ^ 12 + Polynomial.X ^ 5 + 1

/-- A message as one polynomial, its first byte at the top (00_scope R6, 20_memory R26). -/
noncomputable def messagePoly (message : List Byte) : Polynomial (ZMod 2) :=
  message.foldl (fun p b => p * Polynomial.X ^ 8 + gf2Poly b) 0

end Sys2Proof.Safety
end

