-- ==== Sys2Proof/Certificates/Slice0/Obligations.lean ====
section
/-! DEFINITION. The statements for the provers, from the numbered rules of spec/. `s` and `t` are states, `i` a
transaction, `w` a word, `d` a data byte, `m` a message. A conclusion of the form `exec i s = .next (s with …)` names every
field the transaction changes: all the others, the host's `pending` and `index` among them, are unchanged. A byte `R` that
a read returns to the host is appended to `returned`, the model's record of those bytes (log entry 2). -/

open Sys2Proof Sys2Proof.Machine Sys2Proof.Safety

/-! ### Each transaction: its encoding, its effect, its flags, its corner cases -/

/-- WR CTRL (42_control_status R65): its words, both clears in one step, the refusal of the reserved form, the flags, the
corner cases, the example. -/
def Obligations.WrCtrlClearsTheChosenChannels : Prop :=
  (∀ (w : TxnWord) (d : Byte), decode w = .ok (.wrCtrl d) ↔ (w &&& 0xFFC#12 = 0x800#12 ∧ d = w.extractLsb' 0 8)) ∧
  (∀ w : TxnWord, w &&& 0xF00#12 = 0x800#12 → w.extractLsb' 2 6 ≠ 0#6 → decode w = .error (.reservedCtrlBits w)) ∧
  (∀ (d : Byte) (s : State), d.extractLsb' 2 6 = 0#6 →
    ∃ t, exec (.wrCtrl d) s = .next t ∧
      t = { s with crc := if d.getLsbD 0 then 0x0000#16 else s.crc, sum := if d.getLsbD 1 then 0x00#8 else s.sum } ∧
      (d.getLsbD 0 = true → crcz t = true) ∧ (d.getLsbD 1 = true → chkz t = true)) ∧
  (∀ (d : Byte) (s : State), d.extractLsb' 2 6 ≠ 0#6 →
    exec (.wrCtrl d) s = .refused (.reserved (.reservedCtrlBits (0x8#4 ++ d)) s.index)) ∧
  (∀ s : State, exec (.wrCtrl 0x00#8) s = .next s) ∧
  (∀ s : State, exec (.wrCtrl 0x03#8) s = .next { s with crc := State.reset.crc, sum := State.reset.sum }) ∧
  crc16 [] = (0x00#8, 0x00#8) ∧ twos8 0x00#8 = 0x00#8 ∧
  (∀ s : State, s.crc = 0x0530#16 → s.sum = 0xE2#8 →
    decode 0x801#12 = .ok (.wrCtrl 0x01#8) ∧
      exec (.wrCtrl 0x01#8) s = .next { s with crc := 0x0000#16, sum := 0xE2#8 })

/-- WR CRCIN (40_crc R47): its words, one CRC step, the flags, the corner cases, the example. -/
def Obligations.WrCrcinFeedsOneByte : Prop :=
  (∀ (w : TxnWord) (d : Byte), decode w = .ok (.wrCrcin d) ↔ (w &&& 0xF00#12 = 0x900#12 ∧ d = w.extractLsb' 0 8)) ∧
  (∀ (d : Byte) (s : State), ∃ t, exec (.wrCrcin d) s = .next t ∧ t = { s with crc := crcStep s.crc d } ∧
    crcz t = (crcStep s.crc d == 0x0000#16) ∧ chkz t = chkz s) ∧
  (∀ s : State, s.crc = 0x0000#16 → exec (.wrCrcin 0x00#8) s = .next s) ∧
  (∀ (d : Byte) (s : State),
    perform [.wrCrcin d, .wrCrcin d] s = .next { s with crc := crcStep (crcStep s.crc d) d }) ∧
  (∀ s : State, s.crc = 0x0000#16 →
    decode 0x901#12 = .ok (.wrCrcin 0x01#8) ∧ exec (.wrCrcin 0x01#8) s = .next { s with crc := 0x1021#16 })

/-- WR CRCHI (40_crc R48): its words, the byte replaced, the flags, the corner cases (a whole start value, the seeded CRC),
the example. -/
def Obligations.WrCrchiReplacesTheHighByte : Prop :=
  (∀ (w : TxnWord) (d : Byte), decode w = .ok (.wrCrchi d) ↔ (w &&& 0xF00#12 = 0xA00#12 ∧ d = w.extractLsb' 0 8)) ∧
  (∀ (d : Byte) (s : State), ∃ t, exec (.wrCrchi d) s = .next t ∧
    t = { s with crc := BitVec.ofNat 16 (d.toNat * 256 + s.crc.toNat % 256) } ∧
    crcz t = (d == 0x00#8 && s.crc.extractLsb' 0 8 == 0x00#8) ∧ chkz t = chkz s) ∧
  (∀ s : State, exec (.wrCrchi (s.crc.extractLsb' 8 8)) s = .next s) ∧
  (∀ (v : CrcWord) (s : State),
    perform [.wrCrchi (v.extractLsb' 8 8), .wrCrclo (v.extractLsb' 0 8)] s = .next { s with crc := v }) ∧
  (∀ (m : List Byte) (s : State),
    perform ([.wrCrchi 0xFF#8, .wrCrclo 0xFF#8] ++ crcFeedSeq m) s =
      .next { s with crc := m.foldl crcStep 0xFFFF#16 }) ∧
  (∀ s : State, s.crc = 0x1021#16 →
    decode 0xAAB#12 = .ok (.wrCrchi 0xAB#8) ∧ exec (.wrCrchi 0xAB#8) s = .next { s with crc := 0xAB21#16 })

/-- WR CRCLO (40_crc R49): its words, the byte replaced, the flags, the example. -/
def Obligations.WrCrcloReplacesTheLowByte : Prop :=
  (∀ (w : TxnWord) (d : Byte), decode w = .ok (.wrCrclo d) ↔ (w &&& 0xF00#12 = 0xB00#12 ∧ d = w.extractLsb' 0 8)) ∧
  (∀ (d : Byte) (s : State), ∃ t, exec (.wrCrclo d) s = .next t ∧
    t = { s with crc := BitVec.ofNat 16 (s.crc.toNat / 256 * 256 + d.toNat) } ∧
    crcz t = (s.crc.extractLsb' 8 8 == 0x00#8 && d == 0x00#8) ∧ chkz t = chkz s) ∧
  (∀ s : State, s.crc = 0xAB21#16 →
    decode 0xBCD#12 = .ok (.wrCrclo 0xCD#8) ∧ exec (.wrCrclo 0xCD#8) s = .next { s with crc := 0xABCD#16 })

/-- RD CRCHI (40_crc R50): its words, the byte returned, no state changed, what it returns after a clear and after a message,
the example. -/
def Obligations.RdCrchiReturnsTheHighByte : Prop :=
  (∀ w : TxnWord, decode w = .ok .rdCrchi ↔ w &&& 0xF00#12 = 0x200#12) ∧
  (∀ s : State,
    exec .rdCrchi s = .next { s with returned := s.returned ++ [BitVec.ofNat 8 (s.crc.toNat / 256)] }) ∧
  (∀ s : State,
    perform [.wrCtrl 0x01#8, .rdCrchi] s =
      .next { s with crc := 0x0000#16, returned := s.returned ++ [0x00#8] }) ∧
  (∀ (m : List Byte) (s : State),
    perform (crcRst ++ crcFeedSeq m ++ [.rdCrchi]) s =
      .next { s with crc := m.foldl crcStep 0x0000#16, returned := s.returned ++ [(crc16 m).1] }) ∧
  (∀ s : State, s.crc = 0x0530#16 → exec .rdCrchi s = .next { s with returned := s.returned ++ [0x05#8] })

/-- RD CRCLO (40_crc R51): its words, the byte returned, no state changed, what it returns after a message, either order
with RD CRCHI, the example. -/
def Obligations.RdCrcloReturnsTheLowByte : Prop :=
  (∀ w : TxnWord, decode w = .ok .rdCrclo ↔ w &&& 0xF00#12 = 0x300#12) ∧
  (∀ s : State,
    exec .rdCrclo s = .next { s with returned := s.returned ++ [BitVec.ofNat 8 (s.crc.toNat % 256)] }) ∧
  (∀ (m : List Byte) (s : State),
    perform (crcRst ++ crcFeedSeq m ++ [.rdCrclo]) s =
      .next { s with crc := m.foldl crcStep 0x0000#16, returned := s.returned ++ [(crc16 m).2] }) ∧
  (∀ s : State, ∃ hi lo : Byte, s.crc = hi ++ lo ∧
    perform [.rdCrchi, .rdCrclo] s = .next { s with returned := s.returned ++ [hi, lo] } ∧
    perform [.rdCrclo, .rdCrchi] s = .next { s with returned := s.returned ++ [lo, hi] }) ∧
  (∀ s : State, s.crc = 0x0530#16 → exec .rdCrclo s = .next { s with returned := s.returned ++ [0x30#8] })

/-- WR CHKIN (41_chk R59): its words, the addition, the flags, the corner cases, the example. -/
def Obligations.WrChkinAddsModulo256 : Prop :=
  (∀ (w : TxnWord) (d : Byte), decode w = .ok (.wrChkin d) ↔ (w &&& 0xF00#12 = 0xC00#12 ∧ d = w.extractLsb' 0 8)) ∧
  (∀ (d : Byte) (s : State), ∃ t, exec (.wrChkin d) s = .next t ∧
    t = { s with sum := BitVec.ofNat 8 ((s.sum.toNat + d.toNat) % 256) } ∧
    chkz t = decide ((s.sum.toNat + d.toNat) % 256 = 0) ∧ crcz t = crcz s) ∧
  (∀ s : State, exec (.wrChkin 0x00#8) s = .next s) ∧
  (∀ (d : Byte) (s : State),
    perform [.wrChkin d, .wrChkin d] s =
      .next { s with sum := BitVec.ofNat 8 ((s.sum.toNat + d.toNat + d.toNat) % 256) }) ∧
  (∀ s : State, s.sum = 0xFF#8 → ∃ t, decode 0xC01#12 = .ok (.wrChkin 0x01#8) ∧
    exec (.wrChkin 0x01#8) s = .next t ∧ t = { s with sum := 0x00#8 } ∧ chkz t = true)

/-- RD CHKOUT (41_chk R60): its words, the byte returned, no state changed, the corner cases (the checksum that the bytes
added so far need), the example. -/
def Obligations.RdChkoutReturnsTheChecksum : Prop :=
  (∀ w : TxnWord, decode w = .ok .rdChkout ↔ w &&& 0xF00#12 = 0x500#12) ∧
  (∀ s : State, exec .rdChkout s = .next { s with returned := s.returned ++ [twos8 s.sum] }) ∧
  (∀ s : State, s.sum = 0x00#8 → exec .rdChkout s = .next { s with returned := s.returned ++ [0x00#8] }) ∧
  (∀ s : State, s.sum = 0x80#8 → exec .rdChkout s = .next { s with returned := s.returned ++ [0x80#8] }) ∧
  (∀ (m : List Byte) (s : State), ∃ (v cc : Byte),
    perform (chkRst ++ chkFeedSeq m ++ [.rdChkout]) s =
      .next { s with sum := v, returned := s.returned ++ [cc] } ∧
    ((m.map BitVec.toNat).sum + cc.toNat) % 256 = 0) ∧
  (∀ s : State, s.sum = 0xE2#8 → exec .rdChkout s = .next { s with returned := s.returned ++ [0x1E#8] })

/-- RD STAT (42_control_status R66): its words, the byte returned, no state changed, the corner cases (reset, messages of
zeros, a message and its CRC, bytes and their checksum), the example. -/
def Obligations.RdStatReturnsTheZeroFlags : Prop :=
  (∀ w : TxnWord, decode w = .ok .rdStat ↔ w &&& 0xF00#12 = 0x600#12) ∧
  (∀ s : State, exec .rdStat s = .next { s with returned := s.returned ++
    [BitVec.ofNat 8 ((if s.sum = 0x00#8 then 2 else 0) + (if s.crc = 0x0000#16 then 1 else 0))] }) ∧
  (exec .rdStat State.reset = .next { State.reset with returned := State.reset.returned ++ [0x03#8] }) ∧
  (∀ (n : Nat) (s : State), ∃ b : Byte,
    bytesReturned (crcRst ++ crcFeedSeq (List.replicate n 0x00#8) ++ [.rdStat]) s = some [b] ∧ b.getLsbD 0 = true) ∧
  (∀ (m : List Byte) (s : State), ∃ b : Byte,
    bytesReturned (crcRst ++ crcFeedSeq (m ++ [(crc16 m).1, (crc16 m).2]) ++ [.rdStat]) s = some [b] ∧
    b.getLsbD 0 = true) ∧
  (∀ (r : HexRecord) (s : State), r.checksum = twos8 (r.preceding.foldl (· + ·) 0x00#8) → ∃ b : Byte,
    bytesReturned (chkRst ++ chkFeedSeq (r.preceding ++ [r.checksum]) ++ [.rdStat]) s = some [b] ∧
    b.getLsbD 1 = true) ∧
  (∀ s : State, s.crc = 0x1021#16 → s.sum = 0x00#8 →
    exec .rdStat s = .next { s with returned := s.returned ++ [0x02#8] })

/-! ### The encoding -/

/-- The opcode map (30_encoding R38): the nine rows, and no word in two of them. -/
def Obligations.OpcodeMapIsTheNineRows : Prop :=
  (∀ (w : TxnWord) (i : Instr), decode w = .ok i ↔
    ((w &&& 0xFFC#12 = 0x800#12 ∧ i = .wrCtrl (w.extractLsb' 0 8)) ∨
      (w &&& 0xF00#12 = 0x900#12 ∧ i = .wrCrcin (w.extractLsb' 0 8)) ∨
      (w &&& 0xF00#12 = 0xA00#12 ∧ i = .wrCrchi (w.extractLsb' 0 8)) ∨
      (w &&& 0xF00#12 = 0xB00#12 ∧ i = .wrCrclo (w.extractLsb' 0 8)) ∨
      (w &&& 0xF00#12 = 0xC00#12 ∧ i = .wrChkin (w.extractLsb' 0 8)) ∨
      (w &&& 0xF00#12 = 0x200#12 ∧ i = .rdCrchi) ∨ (w &&& 0xF00#12 = 0x300#12 ∧ i = .rdCrclo) ∨
      (w &&& 0xF00#12 = 0x500#12 ∧ i = .rdChkout) ∨ (w &&& 0xF00#12 = 0x600#12 ∧ i = .rdStat))) ∧
  opcodeRows.length = 9 ∧
  (∀ w : TxnWord, opcodeRows.countP (fun r => w &&& r.mask == r.value) ≤ 1)

/-- Decode and encode agree, both ways, on every transaction and every word; a read's word comes back with its ignored bits
at 0 (30_encoding R37, R38). -/
def Obligations.DecodeAndEncodeAgree : Prop :=
  (∀ i : Instr, i.wellFormed = true → decode (encode i) = .ok i) ∧
  (∀ (w : TxnWord) (i : Instr), decode w = .ok i →
    i.wellFormed = true ∧ encode i = if w.getLsbD 11 then w else w &&& 0xF00#12)

/-- Which words are reserved, and how many (30_encoding R39). -/
def Obligations.ReservedWordsAreThreeClasses : Prop :=
  (∀ w : TxnWord, (∃ why, decode w = .error why) ↔
    (w.extractLsb' 8 4 ∈ [0x0#4, 0x1#4, 0x4#4, 0x7#4] ∨ w.extractLsb' 8 4 ∈ [0xD#4, 0xE#4, 0xF#4] ∨
      (w.extractLsb' 8 4 = 0x8#4 ∧ w.extractLsb' 2 6 ≠ 0#6))) ∧
  ((List.range 4096).countP (fun n => (decodeTableWord 16 n).isNone) = 2044) ∧
  ((List.range 4096).countP (fun n => (decodeTableWord 16 n).isSome) = 2052)

/-- Each reserved word has one reason, chosen in the order of 60_exceptions R81. -/
def Obligations.RefusalReasonFollowsThePriority : Prop :=
  ∀ w : TxnWord, (∀ i, decode w ≠ .ok i) →
    decode w = .error
      (if w.extractLsb' 8 3 = 7#3 then .reservedOffset w
      else if (w.getLsbD 11 = false ∧ w.extractLsb' 8 3 ∈ [0#3, 1#3, 4#3]) ∨
          (w.getLsbD 11 = true ∧ w.extractLsb' 8 3 ∈ [5#3, 6#3]) then .wrongDirection w
      else .reservedCtrlBits w)

/-- A few words written out from 30_encoding R38 and 95_test_vectors V14, V18 and V19 decode to what they stand for. -/
def Obligations.WordsOfTheSpecDecode : Prop :=
  decode 0b100000000001#12 = .ok (.wrCtrl 0x01#8) ∧ decode 0b100101000001#12 = .ok (.wrCrcin 0x41#8) ∧
  decode 0b101010101011#12 = .ok (.wrCrchi 0xAB#8) ∧ decode 0b101111001101#12 = .ok (.wrCrclo 0xCD#8) ∧
  decode 0b110000000001#12 = .ok (.wrChkin 0x01#8) ∧ decode 0b001000000000#12 = .ok .rdCrchi ∧
  decode 0b001101011010#12 = .ok .rdCrclo ∧ decode 0b010100000000#12 = .ok .rdChkout ∧
  decode 0b011000000000#12 = .ok .rdStat ∧ decode 0b011100000000#12 = .error (.reservedOffset 0x700#12) ∧
  decode 0b000100000000#12 = .error (.wrongDirection 0x100#12) ∧
  decode 0b100000000100#12 = .error (.reservedCtrlBits 0x804#12)

/-! ### The step and runs -/

/-- A step runs the decoded transaction, and moves the host on by one (10_state R16, 30_encoding R40). -/
def Obligations.StepRunsTheDecodedTransaction : Prop :=
  ∀ (s : State) (w : TxnWord) (rest : List HostEvent) (i : Instr),
    s.pending = .transaction w :: rest → decode w = .ok i →
    step s =
      match exec i s with
      | .next t => .next { t with pending := rest, index := s.index + 1 }
      | .fault r => .fault r
      | .refused r => .refused r

/-- The reset event and the reset state (70_reset_and_hazards R90): both channels take their clear values, and the register
map then reads 00, 00, 00, 03, the values of the empty message. -/
def Obligations.ResetEventClearsBothChannels : Prop :=
  (∀ (s : State) (rest : List HostEvent), s.pending = .resetInput :: rest →
    ∃ t, step s = .next t ∧ t.crc = 0x0000#16 ∧ t.sum = 0x00#8 ∧
      bytesReturned [.rdCrchi, .rdCrclo, .rdChkout, .rdStat] t = some [0x00#8, 0x00#8, 0x00#8, 0x03#8]) ∧
  State.reset.crc = 0x0000#16 ∧ State.reset.sum = 0x00#8 ∧
  bytesReturned [.rdCrchi, .rdCrclo, .rdChkout, .rdStat] State.reset = some [0x00#8, 0x00#8, 0x00#8, 0x03#8] ∧
  crc16 [] = (0x00#8, 0x00#8) ∧ twos8 0x00#8 = 0x00#8

/-- THE MODEL'S CHOICES about the host's side of the bus (log entries 1, 2 and 14): with nothing issued, steps leave the
whole state as it is; a reset event is done with and leaves the index and the bytes returned; after reset nothing is
issued, counted or returned. -/
def Obligations.HostSideWithoutATransaction : Prop :=
  (∀ s : State, s.pending = [] → ∀ n, run n s = .next s) ∧
  (∀ (s : State) (rest : List HostEvent), s.pending = .resetInput :: rest →
    step s = .next ⟨0x0000#16, 0x00#8, rest, s.index, s.returned⟩) ∧
  State.reset.pending = [] ∧ State.reset.index = 0 ∧ State.reset.returned = []

/-- `WR CTRL, 0x03` leaves the engine in the reset state (70_reset_and_hazards R91). -/
def Obligations.ClearingBothReachesTheResetState : Prop :=
  ∀ s : State, ∃ t, exec (.wrCtrl 0x03#8) s = .next t ∧ engineOf t = engineOf State.reset

/-- Every legal transaction completes in every state: its word is performed by a step (60_exceptions R78). -/
def Obligations.EveryLegalTransactionCompletes : Prop :=
  (∀ (i : Instr) (s : State), i.wellFormed = true → ∃ t, exec i s = .next t) ∧
  (∀ (s : State) (w : TxnWord) (rest : List HostEvent), s.pending = .transaction w :: rest →
    ((∃ t, step s = .next t) ↔ ∃ i, decode w = .ok i))

/-- Every run has its account: whatever number of steps goes on from a state, the state it reaches is what the account of the
events performed says (10_state R11, R12, R16; 20_memory R31). THE MODEL'S CHOICES in it: log entries 1, 2 and 14, as for
one step (EveryStepKeepsTheAccount). -/
def Obligations.EveryRunHasItsAccount : Prop :=
  ∀ (n : Nat) (s t : State), run n s = .next t → AccountsFor s t

/-- Every step keeps the account of the run: `crc` is the CRC of the bytes fed since it was last set, `sum` the sum of
those added since it was last cleared, every byte returned is the one that those give, and the index counts the
transactions (10_state R11, R12, R16; 20_memory R31). THE MODEL'S CHOICES in it: that the events to come, and an idle step
that keeps everything, are as log entry 1 says, that the returned bytes are kept in a list (log entry 2), and that a reset
event keeps the index and that list (log entry 14). -/
def Obligations.EveryStepKeepsTheAccount : Prop :=
  ∀ s0 s t : State, AccountsFor s0 s → step s = .next t → AccountsFor s0 t

/-- A program of legal transactions runs to its end, one step each, and does what its transactions do in order
(10_state R16, 20_memory R31). -/
def Obligations.RunPerformsTheProgramInOrder : Prop :=
  ∀ (is : List Instr) (rest : List HostEvent) (s : State), (∀ i ∈ is, i.wellFormed = true) →
    s.pending = (is.map fun i => HostEvent.transaction (encode i)) ++ rest →
    ∃ t, perform is s = .next t ∧ run is.length s = .next { t with pending := rest, index := s.index + is.length }

/-- A reserved word stops the run at its own index, whatever follows it, and later steps do not mask it
(60_exceptions R80); the words before it are performed. -/
def Obligations.ReservedWordStopsTheRunAtItsIndex : Prop :=
  ∀ (is : List Instr) (w : TxnWord) (why : RefusalReason) (rest : List HostEvent) (s : State),
    (∀ i ∈ is, i.wellFormed = true) → decode w = .error why →
    s.pending = (is.map fun i => HostEvent.transaction (encode i)) ++ .transaction w :: rest →
    (∀ n, n ≤ is.length → ∃ t, run n s = .next t) ∧
    (∀ n, run (is.length + 1 + n) s = .refused (.reserved why (s.index + is.length)))

/-! ### Independence of the channels, and which transactions repeat safely -/

/-- The two channels are independent (10_state R15). -/
def Obligations.ChannelsAreIndependent : Prop :=
  ∀ (i : Instr) (s t : State), exec i s = .next t →
    ((∃ d, i = .wrCrcin d ∨ i = .wrCrchi d ∨ i = .wrCrclo d ∨ (i = .wrCtrl d ∧ d.getLsbD 1 = false)) → t.sum = s.sum) ∧
    ((∃ d, i = .wrChkin d ∨ (i = .wrCtrl d ∧ d.getLsbD 0 = false)) → t.crc = s.crc) ∧
    (t.crc ≠ s.crc → t.sum ≠ s.sum →
      ∃ d, i = .wrCtrl d ∧ d.getLsbD 0 = true ∧ d.getLsbD 1 = true ∧ t.crc = 0x0000#16 ∧ t.sum = 0x00#8)

/-- What one channel holds after a run is untouched by what the other held before it: two runs that differ in `sum` alone
end alike but for `sum` and the bytes returned, and the same for `crc` (10_state R15). -/
def Obligations.ChannelsLeakNothingIntoEachOther : Prop :=
  (∀ (n : Nat) (s s' t : State), s'.crc = s.crc → s'.pending = s.pending → s'.index = s.index →
    run n s = .next t →
    ∃ t', run n s' = .next t' ∧ t'.crc = t.crc ∧ t'.pending = t.pending ∧ t'.index = t.index) ∧
  (∀ (n : Nat) (s s' t : State), s'.sum = s.sum → s'.pending = s.pending → s'.index = s.index →
    run n s = .next t →
    ∃ t', run n s' = .next t' ∧ t'.sum = t.sum ∧ t'.pending = t.pending ∧ t'.index = t.index) ∧
  (∀ (n : Nat) (s s' : State) (r : Refusal), s'.pending = s.pending → s'.index = s.index →
    run n s = .refused r → run n s' = .refused r)

/-- A computation on one channel may be interleaved with any on the other: leaving out every transaction that does not
touch `crc` changes nothing of `crc`, and the same for `sum` (10_state R15, 45_composite_sequences R77). -/
def Obligations.InterleavingChangesNeitherChannel : Prop :=
  ∀ (is : List Instr) (s : State), (∀ i ∈ is, i.wellFormed = true) →
    ∃ t u v, perform is s = .next t ∧ perform (is.filter touchesCrc) s = .next u ∧
      perform (is.filter touchesChk) s = .next v ∧ t.crc = u.crc ∧ t.sum = v.sum

/-- Side effects and idempotency (20_memory R30): reads change neither channel and repeat with the same answer; WR CTRL,
WR CRCHI and WR CRCLO leave the second time what they left the first; feeding the same byte again feeds it again. -/
def Obligations.OnlyTheFeedingWritesAreNotIdempotent : Prop :=
  (∀ (i : Instr), i ∈ [.rdCrchi, .rdCrclo, .rdChkout, .rdStat] → ∀ s : State, ∃ b : Byte,
    exec i s = .next { s with returned := s.returned ++ [b] } ∧
    perform [i, i] s = .next { s with returned := s.returned ++ [b, b] }) ∧
  (∀ (d : Byte) (i : Instr), i ∈ [.wrCtrl d, .wrCrchi d, .wrCrclo d] → ∀ s t : State, exec i s = .next t →
    exec i t = .next t) ∧
  (∀ (d : Byte) (s : State), perform [.wrCrcin d, .wrCrcin d] s = .next { s with crc := crcStep (crcStep s.crc d) d }) ∧
  (∀ (d : Byte) (s : State), perform [.wrChkin d, .wrChkin d] s = .next { s with sum := s.sum + d + d }) ∧
  (∃ (d : Byte) (s t u : State), exec (.wrCrcin d) s = .next t ∧ exec (.wrCrcin d) t = .next u ∧ u.crc ≠ t.crc) ∧
  (∃ (d : Byte) (s t u : State), exec (.wrChkin d) s = .next t ∧ exec (.wrChkin d) t = .next u ∧ u.sum ≠ t.sum)

/-! ### The CRC function -/

/-- `crc_step` is its pseudocode (40_crc R45): the byte into the high half, then eight shifts. -/
def Obligations.CrcStepIsEightShifts : Prop :=
  ∀ (c : CrcWord) (b : Byte), crcStep c b =
    (fun v : CrcWord => if v.getLsbD 15 then (v <<< 1) ^^^ 0x1021#16 else v <<< 1)^[8] (c ^^^ (b.setWidth 16 <<< 8))

/-- `crc16` is its pseudocode and gives the source's two reference values (40_crc R46). -/
def Obligations.CrcSixteenMeetsTheReferenceValues : Prop :=
  (∀ m : List Byte, (crc16 m).1 ++ (crc16 m).2 = m.foldl crcStep 0x0000#16) ∧
  crc16 [] = (0x00#8, 0x00#8) ∧ crc16 ((List.range 255).map (BitVec.ofNat 8)) = (0x05#8, 0x30#8)

/-- Feeding a byte is feeding its eight bits, bit 7 first and bit 0 last (20_memory R26). -/
def Obligations.CrcTakesBitSevenFirst : Prop :=
  (∀ (c : CrcWord) (b : Byte), crcStep c b = (bitsMsbFirst b).foldl crcBit c) ∧
  (∀ (c : CrcWord) (m : List Byte), crcFeed c m = (m.flatMap bitsMsbFirst).foldl crcBit c)

/-- Zero is a fixed point, and no message of zeros can be told from the empty one (40_crc R52). -/
def Obligations.ZeroMessagesHaveCrcZero : Prop :=
  crcStep 0x0000#16 0x00#8 = 0x0000#16 ∧
  (∀ (n : Nat), crc16 (List.replicate n 0x00#8) = crc16 [] ∧ crc16 (List.replicate n 0x00#8) = (0x00#8, 0x00#8)) ∧
  (∀ (n : Nat) (s : State), ∃ t u, perform (crcRst ++ crcFeedSeq (List.replicate n 0x00#8)) s = .next t ∧
    perform crcRst s = .next u ∧ crcz t = crcz u) ∧
  crc16 [0x00#8] = (0x00#8, 0x00#8)

/-- `crc_step` is linear over GF(2) in its two arguments together, with the consequences the rule draws (40_crc R53). -/
def Obligations.CrcStepIsLinear : Prop :=
  (∀ (c₁ c₂ : CrcWord) (b₁ b₂ : Byte), crcStep (c₁ ^^^ c₂) (b₁ ^^^ b₂) = crcStep c₁ b₁ ^^^ crcStep c₂ b₂) ∧
  (∀ (c : CrcWord) (b : Byte), crcStep c b = crcStep c 0x00#8 ^^^ crcStep 0x0000#16 b) ∧
  (∀ b : Byte, crcStep 0x0000#16 b = (crc16 [b]).1 ++ (crc16 [b]).2)

/-- The CRC by a table of single-byte CRCs, as software computes it: the same function (40_crc R45, R53). -/
def Obligations.TableDrivenCrcIsTheSame : Prop :=
  ∀ (c : CrcWord) (m : List Byte), crcFeed c m =
    m.foldl (fun (v : CrcWord) (b : Byte) =>
      (v <<< 8) ^^^ ((crc16 [v.extractLsb' 8 8 ^^^ b]).1 ++ (crc16 [v.extractLsb' 8 8 ^^^ b]).2 : CrcWord)) c

/-- Single-byte CRCs are distinct (40_crc R54). -/
def Obligations.SingleByteCrcsAreDistinct : Prop :=
  (∀ j k : Byte, j ≠ k → crc16 [j] ≠ crc16 [k]) ∧
  (∀ j k : Byte, ((crc16 [j]).1 ++ (crc16 [j]).2) ^^^ ((crc16 [k]).1 ++ (crc16 [k]).2) = crcStep 0x0000#16 (j ^^^ k)) ∧
  (∀ e : Byte, e ≠ 0x00#8 → crcStep 0x0000#16 e ≠ 0x0000#16)

/-- Residue: a message and then its own CRC, high byte first, leave zero, from any start value; and CRCZ says so
(40_crc R55). -/
def Obligations.MessageAndItsCrcLeaveZero : Prop :=
  ∀ (m : List Byte) (s : State), ∃ t u, perform (crcFeedSeq m) s = .next t ∧
    perform [.wrCrcin (t.crc.extractLsb' 8 8), .wrCrcin (t.crc.extractLsb' 0 8)] t = .next u ∧
    u.crc = 0x0000#16 ∧ crcz u = true

/-- The residue test has no false positive: after a message, two more bytes leave zero only when they are its CRC
(40_crc R53, R55; 45_composite_sequences R71). -/
def Obligations.ResidueZeroOnlyForTheRightCrc : Prop :=
  ∀ (c : CrcWord) (m : List Byte) (hi lo : Byte),
    crcFeed c (m ++ [hi, lo]) = 0x0000#16 ↔ crcFeed c m = hi ++ lo

/-- A seeded CRC is the same function from the other start value, with the check values of the rule (40_crc R56). -/
def Obligations.SeededCrcStartsFromTheSeed : Prop :=
  (∀ (m : List Byte) (s : State),
    perform (crcSeed 0xFFFF#16 ++ crcFeedSeq m) s = .next { s with crc := m.foldl crcStep 0xFFFF#16 }) ∧
  (∀ s : State, perform (crcSeed 0xFFFF#16 ++ crcFeedSeq
      [0x31#8, 0x32#8, 0x33#8, 0x34#8, 0x35#8, 0x36#8, 0x37#8, 0x38#8, 0x39#8]) s = .next { s with crc := 0x29B1#16 }) ∧
  (∀ s : State, perform (crcRst ++ crcFeedSeq
      [0x31#8, 0x32#8, 0x33#8, 0x34#8, 0x35#8, 0x36#8, 0x37#8, 0x38#8, 0x39#8]) s = .next { s with crc := 0x31C3#16 }) ∧
  (∀ (m : List Byte) (s : State),
    perform (crcRst ++ crcFeedSeq m) s = .next { s with crc := (crc16 m).1 ++ (crc16 m).2 }) ∧
  (∀ m : List Byte,
    perform (crcFeedSeq m) State.reset = .next { State.reset with crc := (crc16 m).1 ++ (crc16 m).2 }) ∧
  (∀ (m : List Byte) (s : State) (rest : List HostEvent), s.pending = .resetInput :: rest →
    ∃ t, step s = .next t ∧ perform (crcFeedSeq m) t = .next { t with crc := (crc16 m).1 ++ (crc16 m).2 })

/-- The CRC is the remainder of the message polynomial over GF(2), as the grounds of 40_crc R54 and R55 say it. -/
def Obligations.CrcIsThePolynomialRemainder : Prop :=
  (∀ (c : CrcWord) (b : Byte),
    gf2Poly (crcStep c b) = (gf2Poly c * Polynomial.X ^ 8 + gf2Poly b * Polynomial.X ^ 16) %ₘ crcModulus) ∧
  (∀ m : List Byte, gf2Poly (crcFeed 0x0000#16 m) = (messagePoly m * Polynomial.X ^ 16) %ₘ crcModulus)

/-- A message fed without a clear gives the message's own value only when the channel held its clear value
(70_reset_and_hazards R92), whatever the power-up draw was (R89); after a clear the draw is gone. -/
def Obligations.OnlyAClearedChannelGivesTheMessageValue : Prop :=
  (∀ (c : CrcWord) (m : List Byte), crcFeed c m = crcFeed 0x0000#16 m ↔ c = 0x0000#16) ∧
  (∀ (v : Byte) (m : List Byte), twos8 (sumFeed v m) = twos8 (sumFeed 0x00#8 m) ↔ v = 0x00#8) ∧
  (∀ (c : CrcWord) (v : Byte) (m : List Byte),
    bytesReturned (crc16OnEngine m) (State.powerUp c v) = some [(crc16 m).1, (crc16 m).2]) ∧
  (∀ (c : CrcWord) (v : Byte), bytesReturned [.rdCrchi, .rdCrclo, .rdChkout] (State.powerUp c v) =
    some [c.extractLsb' 8 8, c.extractLsb' 0 8, twos8 v])

/-! ### The CHK function -/

/-- `twos8` is the source's formula at width 8, on integers (41_chk R57). -/
def Obligations.TwosComplementIsTheSourceFormula : Prop :=
  ∀ v : Byte, ((twos8 v).toNat : Int) = (((v &&& 0x80#8).toNat : Int) - ((v &&& 0x7F#8).toNat : Int)) % 256

/-- `twos8` is negation: an involution with two fixed points, and the source's four vectors (41_chk R58). -/
def Obligations.TwosComplementIsAnInvolution : Prop :=
  (∀ v : Byte, (twos8 v).toNat = (256 - v.toNat) % 256) ∧ (∀ v : Byte, twos8 (twos8 v) = v) ∧
  (∀ v : Byte, twos8 v = v ↔ (v = 0x00#8 ∨ v = 0x80#8)) ∧
  twos8 0xE2#8 = 0x1E#8 ∧ twos8 0xFF#8 = 0x01#8 ∧ twos8 0x00#8 = 0x00#8 ∧ twos8 0x80#8 = 0x80#8

/-- The sum of a message is its exact sum mod 256, in any order (41_chk R61). -/
def Obligations.SumIsExactModulo256InAnyOrder : Prop :=
  ∀ (m m' : List Byte) (s : State), m.Perm m' → ∃ t,
    perform (chkRst ++ chkFeedSeq m) s = .next t ∧ perform (chkRst ++ chkFeedSeq m') s = .next t ∧
    t = { s with sum := BitVec.ofNat 8 ((m.map BitVec.toNat).sum % 256) }

/-- The check law (41_chk R62): the checksum matches exactly when the sum with it is zero mod 256, which is CHKZ after the
checksum byte, and RD CHKOUT before it. -/
def Obligations.ChecksumMatchesWhenTheSumIsZero : Prop :=
  (∀ v cc : Byte, twos8 v = cc ↔ (v.toNat + cc.toNat) % 256 = 0) ∧
  (∀ (m : List Byte) (cc : Byte) (s : State), ∃ (b : Byte) (t : State),
    bytesReturned (chkRst ++ chkFeedSeq m ++ [.rdChkout]) s = some [b] ∧
    perform (chkRst ++ chkFeedSeq (m ++ [cc])) s = .next t ∧ (chkz t = true ↔ b = cc))

/-- `twos8` of one byte with the engine (41_chk R63). -/
def Obligations.EngineComputesTwosComplementOfAByte : Prop :=
  ∀ (v : Byte) (s : State), perform (chkRst ++ [.wrChkin v, .rdChkout]) s =
    .next { s with sum := v, returned := s.returned ++ [twos8 v] }

/-! ### Host sequences -/

/-- The generic CRC sequence (45_composite_sequences R77): it returns the message's CRC, high byte first, leaves the CHK
channel alone, and gives the same with any CHK computation between its transactions. -/
def Obligations.EngineSequenceComputesCrcSixteen : Prop :=
  (∀ (m : List Byte) (s : State),
    perform (crcRst ++ crcFeedSeq m ++ crcGet) s =
      .next { s with crc := crcFeed 0x0000#16 m, returned := s.returned ++ [(crc16 m).1, (crc16 m).2] }) ∧
  (∀ (m : List Byte) (is : List Instr) (s : State), (∀ i ∈ is, i.wellFormed = true) →
    is.filter touchesCrc = crcRst ++ crcFeedSeq m ++ crcGet →
    ∃ (t : State) (answers : List Byte), perform is s = .next t ∧ t.returned = s.returned ++ answers ∧
      answers.length = (is.filter isRead).length ∧
      (((is.filter isRead).zip answers).filter (fun p => touchesCrc p.1)).map Prod.snd = [(crc16 m).1, (crc16 m).2])

/-- The HEX record check, by RD CHKOUT and by CHKZ, is the test that the checksum is the two's complement of the sum of the
record's other bytes (45_composite_sequences R68). -/
def Obligations.HexRecordCheckIsTheChecksumTest : Prop :=
  ∀ (r : HexRecord) (s : State),
    (hexRecordOk r s = true ↔ ((r.preceding.map BitVec.toNat).sum + r.checksum.toNat) % 256 = 0) ∧
    hexResidueOk r s = hexRecordOk r s

/-- The HEX encoder's records (45_composite_sequences R75): the directive and the EOF record of the rule, 16-byte data records
between them that carry the image, and every record passes its check. THE MODEL'S CHOICES (log entry 12): that a shorter
last record is written, and that the data records stand at the addresses 0, 16, 32, …, wrapping past 65535. -/
def Obligations.HexOutputRecordsPassTheirCheck : Prop :=
  ((hexRecordOf 0x04#8 0x0000#16 [0x00#8, 0x00#8]).text = ":020000040000FA".toList) ∧
  ((hexRecordOf 0x01#8 0x0000#16 []).text = ":00000001FF".toList) ∧
  (∀ image : List Byte, ∃ data : List HexRecord,
    hexOutput image =
      [hexRecordOf 0x04#8 0x0000#16 [0x00#8, 0x00#8]] ++ data ++ [hexRecordOf 0x01#8 0x0000#16 []] ∧
    data.flatMap HexRecord.payload = image ∧ (∀ r ∈ data, r.kind = 0x00#8) ∧
    (∀ k, k < image.length / 16 → ∃ r, data[k]? = some r ∧ r.payload.length = 16 ∧ r.address = BitVec.ofNat 16 (16 * k)) ∧
    (∀ r ∈ hexOutput image, r.wellFormed = true ∧ ∀ s : State, hexRecordOk r s = true))

/-- The VERIFY frame and its CRC by the engine (45_composite_sequences R70). -/
def Obligations.VerifyFrameCarriesTheDeferredImageCrc : Prop :=
  ∀ (b : Byte) (bs : List Byte) (s : State), bs.length < 65536 →
    ∃ hi lo last : Byte, ∃ lastHi : Byte,
      bytesReturned (crcRst ++ crcFeedSeq (0xFF#8 :: bs) ++ crcGet) s = some [hi, lo] ∧
      bytesReturned (verifyCrcSeq (b :: bs)) s = some [hi, lo] ∧ (hi, lo) = crc16 (0xFF#8 :: bs) ∧
      lastHi.toNat * 256 + last.toNat = bs.length ∧
      verifyFrame (b :: bs) = [0x24#8, 7#8, 0x34#8, 0x00#8, 0x00#8, lastHi, last, hi, lo]

/-- The device's VERIFY (45_composite_sequences R71): it confirms exactly the CRC of the range, both ends included, and
the two engine sequences of the rule decide the same; its confirmation byte is 64 exactly then. -/
def Obligations.DeviceVerifyConfirmsTheRangeCrc : Prop :=
  ∀ (flash : List Byte) (first last : BitVec 16) (crc : Byte × Byte) (s : State),
    first.toNat ≤ last.toNat → last.toNat < flash.length →
    ∃ range : List Byte, range.length = last.toNat + 1 - first.toNat ∧
      (∀ k, k < range.length → range[k]? = flash[first.toNat + k]?) ∧
      deviceConfirms flash [first.extractLsb' 8 8, first.extractLsb' 0 8, last.extractLsb' 8 8, last.extractLsb' 0 8,
        crc.1, crc.2] = some (crc16 range == crc) ∧
      bytesReturned (deviceVerifySeq range) s = some [(crc16 range).1, (crc16 range).2] ∧
      (∃ b : Byte, bytesReturned (deviceResidueSeq range crc) s = some [b] ∧ b.getLsbD 0 = (crc16 range == crc)) ∧
      (∀ sent, deviceChannel flash sent (frame .verify [first.extractLsb' 8 8, first.extractLsb' 0 8,
        last.extractLsb' 8 8, last.extractLsb' 0 8, crc.1, crc.2]) = 64#8 ↔ crc16 range = crc)

/-- The read-back oracle recovers the true byte, and only it, from a device that verifies correctly: exactly one candidate
is confirmed, in as many attempts as the candidates up to it (45_composite_sequences R73, R74). First for every channel
that confirms as the device's VERIFY does, then for the modelled device. -/
def Obligations.ReadBackRecoversTheTrueByte : Prop :=
  ∀ (flash : List Byte) (a : BitVec 16) (b : Byte) (sent : Nat), flash[a.toNat]? = some b →
    (∀ channel : Channel, (∀ n k, channel n (candidateFrame a k) = 64#8 ↔
        deviceConfirms flash ((candidateFrame a k).drop 3) = some true) →
      readBackByte flash.length channel a sent = (.ok b, sent + b.toNat + 1) ∧
      (∀ n k, channel n (candidateFrame a k) = 64#8 ↔ k = b)) ∧
    readBackByte flash.length (deviceChannel flash) a sent = (.ok b, sent + b.toNat + 1) ∧
    (∀ n k, deviceChannel flash n (candidateFrame a k) = 64#8 ↔ k = b)

/-- The read-back driver over channels that confirm nothing, or one candidate everywhere (45_composite_sequences R73,
95_test_vectors V6), on addresses of the flash; none of them is past 0xFFFF. -/
def Obligations.ReadBackTriesEveryCandidateInOrder : Prop :=
  (∀ (size : Nat) (channel : Channel) (a : BitVec 16) (sent n : Nat), a.toNat < size → (∀ k f, channel k f ≠ 64#8) →
    readBack size channel a sent (n + 1) = (.error (.raised .noPossibleMatch), sent + 256)) ∧
  (∀ (size : Nat) (channel : Channel) (k : Byte) (a : BitVec 16) (sent n : Nat),
    a.toNat + n ≤ size → a.toNat + n ≤ 65536 →
    (∀ x b j, channel x (candidateFrame b j) = 64#8 ↔ j = k) →
    readBack size channel a sent n = (.ok (List.replicate n k), sent + n * (k.toNat + 1)))

/-- A host refuses to send a VERIFY whose range is no range of the flash (93_implementation_defined U6): exactly where the
device's verdict is not given (91_not_in_source N6); the flash driver stops there and the read-back does not begin. -/
def Obligations.HostRefusesVerifyOffTheFlash : Prop :=
  (∀ (flash : List Byte) (first last : BitVec 16) (crc : Byte × Byte),
    sendable flash.length (frame .verify (verifyPayload first last crc)) =
        decide (first.toNat ≤ last.toNat ∧ last.toNat < flash.length) ∧
      (deviceConfirms flash (verifyPayload first last crc)).isSome =
        decide (first.toNat ≤ last.toNat ∧ last.toNat < flash.length)) ∧
  (∀ (size : Nat) (channel : Channel) (sent : Nat) (pre post : List (List Byte)) (first last : BitVec 16)
      (crc : Byte × Byte),
    (∀ k f, pre[k]? = some f → sendable size f = true ∧ channel (sent + k) f = 64#8) →
    (last.toNat < first.toNat ∨ size ≤ last.toNat) →
    sendFrames size channel sent (pre ++ frame .verify (verifyPayload first last crc) :: post) =
      (.error (.refusesToSend (frame .verify (verifyPayload first last crc))), sent + pre.length)) ∧
  (∀ (size : Nat) (channel : Channel) (a : BitVec 16) (sent n : Nat), size ≤ a.toNat →
    readBack size channel a sent (n + 1) = (.error (.refusesToSend (candidateFrame a 0x00#8)), sent))

/-- What the HEX decoder raises (45_composite_sequences R68, 60_exceptions R82): on a data record, ChecksumMismatch exactly
when the checksum does not fit; on a type other than data, EOF and extended address zero, UnsupportedInput. THE MODEL'S
CHOICES: a type that no rule names is refused, not skipped (log entry 20), a type-04 payload of other than two bytes is
refused too, zero bytes or not (log entry 22), an unsupported record's checksum is not looked at (log entry 18), `LL` is not
held against the number of payload bytes (log entry 19), and a record is judged alone, whatever its address (log
entry 21). -/
def Obligations.HexDecoderRaisesItsErrors : Prop :=
  ∀ (r : HexRecord) (s : State),
    (r.kind = 0x00#8 → hexRecordError r s =
      if ((r.preceding.map BitVec.toNat).sum + r.checksum.toNat) % 256 = 0 then none else some .checksumMismatch) ∧
    (r.kind ∉ [0x00#8, 0x01#8, 0x04#8] → hexRecordError r s = some .unsupportedInput) ∧
    (r.kind = 0x04#8 → r.payload ≠ [0x00#8, 0x00#8] → hexRecordError r s = some .unsupportedInput) ∧
    (r.kind = 0x01#8 ∨ (r.kind = 0x04#8 ∧ r.payload = [0x00#8, 0x00#8]) →
      ((r.preceding.map BitVec.toNat).sum + r.checksum.toNat) % 256 = 0 → hexRecordError r s = none)

/-- The frame sequence of an image (45_composite_sequences R72): its order, its length, which pages are erased, and the
source's literal. -/
def Obligations.FrameSequenceHasItsOrderAndCount : Prop :=
  (∀ (b : Byte) (bs : List Byte) (verify autorun : Bool), bs.length < 65536 →
    ∃ pages : List (List Byte),
      toFrames (b :: bs) verify autorun = some ([[0x24#8, 4#8, 0x31#8, 0xA5#8, 0xF1#8, 0x00#8]] ++ pages ++
        (if verify then [verifyFrame (b :: bs)] else []) ++ [[0x24#8, 4#8, 0x33#8, 0x00#8, 0x00#8, b]] ++
        (if autorun then [[0x24#8, 3#8, 0x36#8, 0x00#8, 0x00#8]] else [])) ∧
      pages.length = (bs.length + 1 + 127) / 128 ∧
      (∀ k, k < pages.length → ∃ ah al : Byte, ah.toNat * 256 + al.toNat = 128 * k ∧
        pages[k]? = some ([0x24#8, BitVec.ofNat 8 (((0xFF#8 :: bs).drop (128 * k)).take 128).length + 3#8,
          if (128 * k) % 512 = 0 then 0x32#8 else 0x33#8, ah, al] ++ ((0xFF#8 :: bs).drop (128 * k)).take 128))) ∧
  toFrames [0x00#8] false false = some [[36#8, 4#8, 49#8, 165#8, 241#8, 0#8], [36#8, 4#8, 50#8, 0#8, 0#8, 255#8],
    [36#8, 4#8, 51#8, 0#8, 0#8, 0#8]]

/-- The driver's confirmations (45_composite_sequences R76): all confirmed completes; the first frame that is not stops it,
as a checksum mismatch for VERIFY and an unconfirmed response for any other, and nothing is retried. -/
def Obligations.FirstUnconfirmedFrameStopsTheDriver : Prop :=
  (∀ (size : Nat) (channel : Channel) (sent : Nat) (fs : List (List Byte)),
    (∀ k f, fs[k]? = some f → sendable size f = true ∧ channel (sent + k) f = 64#8) →
    sendFrames size channel sent fs = (.ok (), sent + fs.length)) ∧
  (∀ (size : Nat) (channel : Channel) (sent : Nat) (pre post : List (List Byte)) (c : Command) (payload : List Byte),
    (∀ k f, pre[k]? = some f → sendable size f = true ∧ channel (sent + k) f = 64#8) →
    sendable size (frame c payload) = true → channel (sent + pre.length) (frame c payload) ≠ 64#8 →
    sendFrames size channel sent (pre ++ frame c payload :: post) =
      (.error (.raised (if c = .verify then .checksumMismatch else .unconfirmedResponse)), sent + pre.length + 1))

/-! ### The assembly form -/

/-- The pseudo-instructions are their expansions (30_encoding R43), for every operand in range. -/
def Obligations.PseudoInstructionsExpand : Prop :=
  ∀ (line : Nat) (v : CrcWord) (b : Byte) (bs : List Byte),
    AsmLine.words line .crcrst = .ok [0x801#12] ∧ AsmLine.words line .chkrst = .ok [0x802#12] ∧
    AsmLine.words line .rst = .ok [0x803#12] ∧
    AsmLine.words line (.crcseed v.toNat) = .ok [0xA#4 ++ v.extractLsb' 8 8, 0xB#4 ++ v.extractLsb' 0 8] ∧
    AsmLine.words line (.crcfeed ((b :: bs).map BitVec.toNat)) = .ok ((b :: bs).map (fun d => 0x9#4 ++ d)) ∧
    AsmLine.words line (.chkfeed ((b :: bs).map BitVec.toNat)) = .ok ((b :: bs).map (fun d => 0xC#4 ++ d)) ∧
    AsmLine.words line .crcget = .ok [0x200#12, 0x300#12]

/-- The transcriber refuses a register in the wrong direction and an immediate out of range, by name and line, and reads
every other WR and RD line of 30_encoding R42 as its word (R44). THE MODEL'S CHOICES (log entry 10): a WR line wrong in both
ways is refused for its direction (first clause, every immediate), and WR CTRL with a reserved bit set is a line that gives
its reserved word (fourth clause, at CTRL). -/
def Obligations.TranscriberRefusesByNameAndLine : Prop :=
  (∀ (line imm : Nat) (r : Register), r ∈ [Register.chkout, .stat] →
    AsmLine.words line (.wr r imm) = .error (.wrongDirection line r)) ∧
  (∀ (line : Nat) (r : Register), r ∈ [Register.ctrl, .crcin, .chkin] →
    AsmLine.words line (.rd r) = .error (.wrongDirection line r)) ∧
  (∀ (line imm : Nat) (r : Register), r ∈ [Register.ctrl, .crcin, .crchi, .crclo, .chkin] → 256 ≤ imm →
    AsmLine.words line (.wr r imm) = .error (.immediateOutOfRange line imm)) ∧
  (∀ (line imm : Nat) (r : Register), r ∈ [Register.ctrl, .crcin, .crchi, .crclo, .chkin] → imm < 256 →
    AsmLine.words line (.wr r imm) = .ok [BitVec.ofNat 12 (2048 + 256 * r.offset.toNat + imm)]) ∧
  (∀ (line : Nat) (r : Register), r ∈ [Register.crchi, .crclo, .chkout, .stat] →
    AsmLine.words line (.rd r) = .ok [BitVec.ofNat 12 (256 * r.offset.toNat)])

/-- The two examples of 30_encoding R42, read as text and listed, with a comment; and a line refused by name and line (R44),
where THE MODEL'S CHOICE (log entry 10) is that lines are numbered from 1. -/
def Obligations.AssemblyTextGivesItsWords : Prop :=
  assemble ["WR CRCIN, 0x41".toList, "RD STAT ; flags".toList] = .ok [0x941#12, 0x600#12] ∧
  listing 0x941#12 = "941".toList ∧ listing 0x600#12 = "600".toList ∧
  assemble ["RST".toList, "RD CRCIN".toList] = .error (.wrongDirection 2 .crcin)
end

