-- ==== Sys2Proof/Laws/State.lean ====
section
/-! SUPPORT. What each update of State leaves in each field: one lemma per field per update. -/

namespace Sys2Proof.Machine

section Updates

variable (s : State)

@[simp] theorem State.setCrc_crc (v : CrcWord) : (s.setCrc v).crc = v := rfl
@[simp] theorem State.setCrc_sum (v : CrcWord) : (s.setCrc v).sum = s.sum := rfl
@[simp] theorem State.setCrc_pending (v : CrcWord) : (s.setCrc v).pending = s.pending := rfl
@[simp] theorem State.setCrc_index (v : CrcWord) : (s.setCrc v).index = s.index := rfl
@[simp] theorem State.setCrc_returned (v : CrcWord) : (s.setCrc v).returned = s.returned := rfl

@[simp] theorem State.setSum_crc (v : Byte) : (s.setSum v).crc = s.crc := rfl
@[simp] theorem State.setSum_sum (v : Byte) : (s.setSum v).sum = v := rfl
@[simp] theorem State.setSum_pending (v : Byte) : (s.setSum v).pending = s.pending := rfl
@[simp] theorem State.setSum_index (v : Byte) : (s.setSum v).index = s.index := rfl
@[simp] theorem State.setSum_returned (v : Byte) : (s.setSum v).returned = s.returned := rfl

@[simp] theorem State.respond_crc (v : Byte) : (s.respond v).crc = s.crc := rfl
@[simp] theorem State.respond_sum (v : Byte) : (s.respond v).sum = s.sum := rfl
@[simp] theorem State.respond_pending (v : Byte) : (s.respond v).pending = s.pending := rfl
@[simp] theorem State.respond_index (v : Byte) : (s.respond v).index = s.index := rfl
@[simp] theorem State.respond_returned (v : Byte) : (s.respond v).returned = s.returned ++ [v] := rfl

@[simp] theorem State.popEvent_crc : (s.popEvent).crc = s.crc := rfl
@[simp] theorem State.popEvent_sum : (s.popEvent).sum = s.sum := rfl
@[simp] theorem State.popEvent_pending : (s.popEvent).pending = s.pending.tail := rfl
@[simp] theorem State.popEvent_index : (s.popEvent).index = s.index := rfl
@[simp] theorem State.popEvent_returned : (s.popEvent).returned = s.returned := rfl

@[simp] theorem State.advance_crc : (s.advance).crc = s.crc := rfl
@[simp] theorem State.advance_sum : (s.advance).sum = s.sum := rfl
@[simp] theorem State.advance_pending : (s.advance).pending = s.pending.tail := rfl
@[simp] theorem State.advance_index : (s.advance).index = s.index + 1 := rfl
@[simp] theorem State.advance_returned : (s.advance).returned = s.returned := rfl

@[simp] theorem State.takeReset_crc : (s.takeReset).crc = Config.crcInit := rfl
@[simp] theorem State.takeReset_sum : (s.takeReset).sum = Config.sumInit := rfl
@[simp] theorem State.takeReset_pending : (s.takeReset).pending = s.pending.tail := rfl
@[simp] theorem State.takeReset_index : (s.takeReset).index = s.index := rfl
@[simp] theorem State.takeReset_returned : (s.takeReset).returned = s.returned := rfl

@[simp] theorem State.issue_crc (ws : List TxnWord) : (s.issue ws).crc = s.crc := rfl
@[simp] theorem State.issue_sum (ws : List TxnWord) : (s.issue ws).sum = s.sum := rfl
@[simp] theorem State.issue_pending (ws : List TxnWord) : (s.issue ws).pending = s.pending ++ ws.map .transaction := rfl
@[simp] theorem State.issue_index (ws : List TxnWord) : (s.issue ws).index = s.index := rfl
@[simp] theorem State.issue_returned (ws : List TxnWord) : (s.issue ws).returned = s.returned := rfl

@[simp] theorem State.withFetchWord_crc (nbits w : Nat) : (s.withFetchWord nbits w).crc = s.crc := rfl
@[simp] theorem State.withFetchWord_sum (nbits w : Nat) : (s.withFetchWord nbits w).sum = s.sum := rfl
@[simp] theorem State.withFetchWord_pending (nbits w : Nat) : (s.withFetchWord nbits w).pending = .transaction (tableWord nbits w) :: s.pending := rfl
@[simp] theorem State.withFetchWord_index (nbits w : Nat) : (s.withFetchWord nbits w).index = s.index := rfl
@[simp] theorem State.withFetchWord_returned (nbits w : Nat) : (s.withFetchWord nbits w).returned = s.returned := rfl

@[simp] theorem State.clearCrcIf_crc (b : Bool) : (s.clearCrcIf b).crc = if b then Config.crcInit else s.crc := by cases b <;> rfl
@[simp] theorem State.clearCrcIf_sum (b : Bool) : (s.clearCrcIf b).sum = s.sum := by cases b <;> rfl
@[simp] theorem State.clearCrcIf_pending (b : Bool) : (s.clearCrcIf b).pending = s.pending := by cases b <;> rfl
@[simp] theorem State.clearCrcIf_index (b : Bool) : (s.clearCrcIf b).index = s.index := by cases b <;> rfl
@[simp] theorem State.clearCrcIf_returned (b : Bool) : (s.clearCrcIf b).returned = s.returned := by cases b <;> rfl

@[simp] theorem State.clearSumIf_crc (b : Bool) : (s.clearSumIf b).crc = s.crc := by cases b <;> rfl
@[simp] theorem State.clearSumIf_sum (b : Bool) : (s.clearSumIf b).sum = if b then Config.sumInit else s.sum := by cases b <;> rfl
@[simp] theorem State.clearSumIf_pending (b : Bool) : (s.clearSumIf b).pending = s.pending := by cases b <;> rfl
@[simp] theorem State.clearSumIf_index (b : Bool) : (s.clearSumIf b).index = s.index := by cases b <;> rfl
@[simp] theorem State.clearSumIf_returned (b : Bool) : (s.clearSumIf b).returned = s.returned := by cases b <;> rfl

end Updates

@[simp] theorem State.reset_crc : State.reset.crc = 0x0000#16 := rfl
@[simp] theorem State.reset_sum : State.reset.sum = 0x00#8 := rfl
@[simp] theorem State.reset_pending : State.reset.pending = [] := rfl
@[simp] theorem State.reset_index : State.reset.index = 0 := rfl
@[simp] theorem State.reset_returned : State.reset.returned = [] := rfl

section PowerUp

variable (c : CrcWord) (v : Byte)

@[simp] theorem State.powerUp_crc : (State.powerUp c v).crc = c := rfl
@[simp] theorem State.powerUp_sum : (State.powerUp c v).sum = v := rfl
@[simp] theorem State.powerUp_pending : (State.powerUp c v).pending = [] := rfl
@[simp] theorem State.powerUp_index : (State.powerUp c v).index = 0 := rfl
@[simp] theorem State.powerUp_returned : (State.powerUp c v).returned = [] := rfl

end PowerUp

end Sys2Proof.Machine
end

