-- ==== Sys2Proof/Laws/Ops.lean ====
section
/-! SUPPORT. What each shared operation can do, said once, and the inversions of `exec` and `step`. -/

namespace Sys2Proof.Machine

/-! ### Bytes of `crc` -/

theorem hiByte_toNat (c : CrcWord) : (hiByte c).toNat = c.toNat / 256 := by
  have := c.isLt
  simp only [hiByte, BitVec.extractLsb'_toNat, Nat.shiftRight_eq_div_pow]
  omega

theorem loByte_toNat (c : CrcWord) : (loByte c).toNat = c.toNat % 256 := by
  simp only [loByte, BitVec.extractLsb'_toNat, Nat.shiftRight_eq_div_pow]
  omega

theorem joinBytes_toNat (h l : Byte) : (joinBytes h l).toNat = h.toNat * 256 + l.toNat := by
  have hl := l.isLt
  simp only [joinBytes, BitVec.toNat_append]
  rw [← Nat.shiftLeft_add_eq_or_of_lt hl, Nat.shiftLeft_eq]

@[simp] theorem hiByte_joinBytes (h l : Byte) : hiByte (joinBytes h l) = h := by
  have := l.isLt
  apply BitVec.eq_of_toNat_eq
  rw [hiByte_toNat, joinBytes_toNat]
  omega

@[simp] theorem loByte_joinBytes (h l : Byte) : loByte (joinBytes h l) = l := by
  have := l.isLt
  apply BitVec.eq_of_toNat_eq
  rw [loByte_toNat, joinBytes_toNat]
  omega

@[simp] theorem joinBytes_hiByte_loByte (c : CrcWord) : joinBytes (hiByte c) (loByte c) = c := by
  apply BitVec.eq_of_toNat_eq
  rw [joinBytes_toNat, hiByte_toNat, loByte_toNat]
  omega

/-! ### The CRC over a message -/

@[simp] theorem crcFeed_nil (c : CrcWord) : crcFeed c [] = c := rfl

@[simp] theorem crcFeed_cons (c : CrcWord) (b : Byte) (m : List Byte) :
    crcFeed c (b :: m) = crcFeed (crcStep c b) m := rfl

theorem crcFeed_append (c : CrcWord) (m n : List Byte) : crcFeed c (m ++ n) = crcFeed (crcFeed c m) n := by
  simp [crcFeed]

@[simp] theorem sumFeed_nil (v : Byte) : sumFeed v [] = v := rfl

@[simp] theorem sumFeed_cons (v b : Byte) (m : List Byte) : sumFeed v (b :: m) = sumFeed (v + b) m := rfl

theorem sumFeed_append (v : Byte) (m n : List Byte) : sumFeed v (m ++ n) = sumFeed (sumFeed v m) n := by
  simp [sumFeed]

/-! ### Outcomes -/

@[simp] theorem onNext_next (f : State → State) (s : State) : onNext f (.next s) = .next (f s) := rfl

@[simp] theorem onNext_refused (f : State → State) (r : Refusal) : onNext f (.refused r) = .refused r := rfl

/-- An outcome changed by `onNext` goes on exactly where the outcome did. -/
theorem onNext_eq_next_iff (f : State → State) (o : Host.Outcome State Fault Refusal) (t : State) :
    onNext f o = .next t ↔ ∃ s, o = .next s ∧ f s = t := by
  cases o <;> simp [onNext]

@[simp] theorem refuse_eq (why : RefusalReason) (s : State) : refuse why s = .refused (.reserved why s.index) := rfl

/-- A refusal never goes on. -/
theorem refuse_ne_next (why : RefusalReason) (s t : State) : refuse why s ≠ .next t := by simp

/-! ### One transaction -/

/-- Everything a transaction that completes can do: it clears, feeds or sets one byte of a channel, or it returns one
byte. -/
theorem exec_next_cases {i : Instr} {s t : State} (h : exec i s = .next t) :
    (∃ d, i = .wrCtrl d ∧ ctrlReservedClear d = true ∧ t = (s.clearCrcIf (crcClr d)).clearSumIf (chkClr d)) ∨
    (∃ d, i = .wrCrcin d ∧ t = s.setCrc (crcStep s.crc d)) ∨
    (∃ d, i = .wrCrchi d ∧ t = s.setCrc (joinBytes d (loByte s.crc))) ∨
    (∃ d, i = .wrCrclo d ∧ t = s.setCrc (joinBytes (hiByte s.crc) d)) ∨
    (∃ d, i = .wrChkin d ∧ t = s.setSum (s.sum + d)) ∨
    (i = .rdCrchi ∧ t = s.respond (hiByte s.crc)) ∨
    (i = .rdCrclo ∧ t = s.respond (loByte s.crc)) ∨
    (i = .rdChkout ∧ t = s.respond (twos8 s.sum)) ∨
    (i = .rdStat ∧ t = s.respond (statByte s)) := by
  cases i with
  | wrCtrl d =>
    simp only [exec, execWrCtrl] at h
    split at h
    · exact .inl ⟨d, rfl, ‹_›, by simpa using h.symm⟩
    · cases h
  | _ =>
    cases h
    simp

/-- No transaction touches the host's list of what is still to come, nor its index. -/
theorem exec_frame_host {i : Instr} {s t : State} (h : exec i s = .next t) :
    t.pending = s.pending ∧ t.index = s.index := by
  rcases exec_next_cases h with ⟨d, -, -, rfl⟩ | ⟨d, -, rfl⟩ | ⟨d, -, rfl⟩ | ⟨d, -, rfl⟩ | ⟨d, -, rfl⟩ |
    ⟨-, rfl⟩ | ⟨-, rfl⟩ | ⟨-, rfl⟩ | ⟨-, rfl⟩ <;> simp

/-! ### One step -/

/-- Everything a step that goes on can do: nothing, with no event pending; the reset event; or the decoded
transaction. -/
theorem step_next_cases {s t : State} (h : step s = .next t) :
    (s.pending = [] ∧ t = s) ∨
    (∃ rest, s.pending = .resetInput :: rest ∧ t = s.takeReset) ∨
    (∃ w rest i u, s.pending = .transaction w :: rest ∧ decode w = .ok i ∧ exec i s = .next u ∧ t = u.advance) := by
  simp only [step] at h
  split at h
  · exact .inl ⟨‹_›, by simpa using h.symm⟩
  · exact .inr (.inl ⟨_, ‹_›, by simpa using h.symm⟩)
  · split at h
    · obtain ⟨u, hu, rfl⟩ := (onNext_eq_next_iff _ _ _).1 h
      exact .inr (.inr ⟨_, _, _, u, ‹_›, ‹_›, hu, rfl⟩)
    · cases h

/-- The host's own run, one step of it. -/
theorem core_run_succ (M : Host.Core) (n : Nat) (s : M.State) :
    M.run (n + 1) s =
      match M.step s with
      | .next t => M.run n t
      | .fault r => .fault r
      | .refused r => .refused r := rfl

/-- The host's own run of the machine is the run of Safety.lean. -/
theorem core_run_eq_run (n : Nat) (s : State) : Host.Core.run Sys2Proof.core n s = Safety.run n s := by
  induction n generalizing s with
  | zero => rfl
  | succ n ih =>
    refine (core_run_succ Sys2Proof.core n s).trans ?_
    simp only [Safety.run, Sys2Proof.core]
    cases step s with
    | next t => exact ih t
    | fault r => rfl
    | refused r => rfl

/-- Transactions performed in two parts. -/
theorem perform_append (is js : List Instr) (s : State) :
    perform (is ++ js) s =
      match perform is s with
      | .next t => perform js t
      | .fault r => .fault r
      | .refused r => .refused r := by
  induction is generalizing s with
  | nil => rfl
  | cons i is ih =>
    simp only [List.cons_append, perform]
    cases exec i s with
    | next t => exact ih t
    | fault r => rfl
    | refused r => rfl

/-- Bytes fed to the CRC channel one transaction each. -/
theorem perform_crcFeedSeq (m : List Byte) (s : State) :
    perform (crcFeedSeq m) s = .next (s.setCrc (crcFeed s.crc m)) := by
  induction m generalizing s with
  | nil => rfl
  | cons b m ih => exact ih (s.setCrc (crcStep s.crc b))

/-- Bytes added into the CHK channel one transaction each. -/
theorem perform_chkFeedSeq (m : List Byte) (s : State) :
    perform (chkFeedSeq m) s = .next (s.setSum (sumFeed s.sum m)) := by
  induction m generalizing s with
  | nil => rfl
  | cons b m ih => exact ih (s.setSum (s.sum + b))

end Sys2Proof.Machine
end

