-- ==== Sys2Proof/Laws/PerInstr.lean ====
section
/-! SUPPORT. The family EncodingRow: a well-formed transaction's word lies in a row of the opcode map (spec 30_encoding
R38), and that row reads the transaction back from the word's data byte. -/

namespace Sys2Proof.Laws.EncodingRow

/-- Some row of the opcode map holds the transaction's word and rebuilds the transaction from it. -/
def Statement (i : Instr) : Prop :=
  i.wellFormed = true → ∃ r ∈ opcodeRows, r.matches (encode i) = true ∧ r.build (fieldD (encode i)) = i

theorem wrCtrl (d : Byte) : Statement (.wrCtrl d) := fun h =>
  ⟨⟨0x800#12, 0xFFC#12, .wrCtrl⟩, by simp [opcodeRows], by revert d; decide, by revert d; decide⟩

theorem wrCrcin (d : Byte) : Statement (.wrCrcin d) := fun _ =>
  ⟨⟨0x900#12, 0xF00#12, .wrCrcin⟩, by simp [opcodeRows], by revert d; decide, by revert d; decide⟩

theorem wrCrchi (d : Byte) : Statement (.wrCrchi d) := fun _ =>
  ⟨⟨0xA00#12, 0xF00#12, .wrCrchi⟩, by simp [opcodeRows], by revert d; decide, by revert d; decide⟩

theorem wrCrclo (d : Byte) : Statement (.wrCrclo d) := fun _ =>
  ⟨⟨0xB00#12, 0xF00#12, .wrCrclo⟩, by simp [opcodeRows], by revert d; decide, by revert d; decide⟩

theorem wrChkin (d : Byte) : Statement (.wrChkin d) := fun _ =>
  ⟨⟨0xC00#12, 0xF00#12, .wrChkin⟩, by simp [opcodeRows], by revert d; decide, by revert d; decide⟩

theorem rdCrchi : Statement .rdCrchi := fun _ =>
  ⟨⟨0x200#12, 0xF00#12, fun _ => .rdCrchi⟩, by simp [opcodeRows], by decide, rfl⟩

theorem rdCrclo : Statement .rdCrclo := fun _ =>
  ⟨⟨0x300#12, 0xF00#12, fun _ => .rdCrclo⟩, by simp [opcodeRows], by decide, rfl⟩

theorem rdChkout : Statement .rdChkout := fun _ =>
  ⟨⟨0x500#12, 0xF00#12, fun _ => .rdChkout⟩, by simp [opcodeRows], by decide, rfl⟩

theorem rdStat : Statement .rdStat := fun _ =>
  ⟨⟨0x600#12, 0xF00#12, fun _ => .rdStat⟩, by simp [opcodeRows], by decide, rfl⟩

end Sys2Proof.Laws.EncodingRow
end

