-- ==== Sys2Proof/Laws/Sequences.lean ====
section
/-! SUPPORT. What each host operation can do, said once: the device's answer, and one step of the flash driver and of the
read-back search. -/

namespace Sys2Proof.Machine

/-- A failed VERIFY is never confirmed (spec 45_composite_sequences R76). -/
theorem failedConfirmation_ne_confirmed (sent : Nat) (f : List Byte) : failedConfirmation sent f ≠ Config.confirmed := by
  have hk := (Config.failureIndex sent f).isLt
  intro h
  have := congrArg BitVec.toNat h
  simp only [failedConfirmation, Config.confirmed, BitVec.toNat_ofNat] at this
  split at this <;> omega

/-- The verdict on a VERIFY frame is the verdict on its payload. -/
@[simp] theorem verifyVerdict_frame (flash payload : List Byte) :
    verifyVerdict flash (frame .verify payload) = deviceConfirms flash payload := by
  simp [verifyVerdict, frame]

/-- Where the spec gives the verdict, 64 is the answer exactly when it is true. -/
theorem deviceChannel_eq_confirmed_iff {flash f : List Byte} {v : Bool} (h : verifyVerdict flash f = some v) (sent : Nat) :
    deviceChannel flash sent f = Config.confirmed ↔ v = true := by
  cases v <;> simp [deviceChannel, h, failedConfirmation_ne_confirmed]

/-- A frame of another command is always sent. -/
theorem sendable_of_ne_verify {c : Command} (h : c ≠ .verify) (size : Nat) (payload : List Byte) :
    sendable size (frame c payload) = true := by
  cases c <;> first | exact absurd rfl h | rfl

/-- A frame that is sent and confirmed is done with, and the driver goes on. -/
theorem sendFrames_confirmed {size sent : Nat} {channel : Channel} {f : List Byte} (fs : List (List Byte))
    (hs : sendable size f = true) (hc : channel sent f = Config.confirmed) :
    sendFrames size channel sent (f :: fs) = sendFrames size channel (sent + 1) fs := by
  simp [sendFrames, hs, hc]

/-- A frame that is not sent stops the driver before it. -/
theorem sendFrames_not_sendable {size : Nat} {f : List Byte} (channel : Channel) (sent : Nat) (fs : List (List Byte))
    (hs : sendable size f = false) :
    sendFrames size channel sent (f :: fs) = (.error (.refusesToSend f), sent) := by
  simp [sendFrames, hs]

/-- A candidate that is sent and not confirmed costs one attempt. -/
theorem searchCandidates_unconfirmed {size sent : Nat} {channel : Channel} {a : BitVec 16} {k : Byte} (ks : List Byte)
    (hs : sendable size (candidateFrame a k) = true) (hc : channel sent (candidateFrame a k) ≠ Config.confirmed) :
    searchCandidates size channel a sent (k :: ks) = searchCandidates size channel a (sent + 1) ks := by
  simp [searchCandidates, hs, hc]

/-- A candidate that is sent and confirmed ends the search. -/
theorem searchCandidates_confirmed {size sent : Nat} {channel : Channel} {a : BitVec 16} {k : Byte} (ks : List Byte)
    (hs : sendable size (candidateFrame a k) = true) (hc : channel sent (candidateFrame a k) = Config.confirmed) :
    searchCandidates size channel a sent (k :: ks) = (.ok k, sent + 1) := by
  simp [searchCandidates, hs, hc]

end Sys2Proof.Machine
end

