-- ==== Sys2Proof/Tests/Slice0.lean ====
section
/-! SUPPORT. Tests. Expected values are transcribed from spec/95_test_vectors.md (V<n>, P<n>) and from the example lines of
the rules; words are written out from the encodings of 30_encoding R38. A theorem named `test_witness_…` shows a state
and operands that meet the hypotheses of the statement it names. -/

namespace Sys2Proof.Tests

open Sys2Proof.Machine Sys2Proof.Safety

/-- A small state: the two channels, the host's events, nothing returned. -/
def small (c : CrcWord) (v : Byte) (events : List HostEvent) : State := ⟨c, v, events, 0, []⟩

/-- The same with words to issue. -/
def withWords (c : CrcWord) (v : Byte) (words : List TxnWord) : State := small c v (words.map .transaction)

/-! ### WellFormed and Decode -/

/-- 10_state R18: bit 2 of a CTRL write is reserved. -/
theorem test_wf_refuses_ctrl_bit2 : (Instr.wrCtrl 0x04#8).wellFormed = false := by decide

/-- V18, 0x8FF: bits 7:2 are reserved, bits 1:0 are not. -/
theorem test_wf_refuses_ctrl_ff : (Instr.wrCtrl 0xFF#8).wellFormed = false := by decide

theorem test_wf_takes_ctrl_both : (Instr.wrCtrl 0x03#8).wellFormed = true := by decide

/-- 1000 000000ba, b = 1, a = 0. -/
theorem test_decode_wrCtrl : decode 0b100000000010#12 = .ok (.wrCtrl 0x02#8) := rfl

/-- 1001 dddddddd. -/
theorem test_decode_wrCrcin : decode 0b100101000001#12 = .ok (.wrCrcin 0x41#8) := rfl

/-- 1010 dddddddd. -/
theorem test_decode_wrCrchi : decode 0b101010101011#12 = .ok (.wrCrchi 0xAB#8) := rfl

/-- 1011 dddddddd. -/
theorem test_decode_wrCrclo : decode 0b101111001101#12 = .ok (.wrCrclo 0xCD#8) := rfl

/-- 1100 dddddddd. -/
theorem test_decode_wrChkin : decode 0b110001111010#12 = .ok (.wrChkin 0x7A#8) := rfl

/-- 0010 xxxxxxxx. -/
theorem test_decode_rdCrchi : decode 0b001000000000#12 = .ok .rdCrchi := rfl

/-- 0011 xxxxxxxx, with D = 0x5A (V14). -/
theorem test_decode_rdCrclo : decode 0b001101011010#12 = .ok .rdCrclo := rfl

/-- 0101 xxxxxxxx. -/
theorem test_decode_rdChkout : decode 0b010111111111#12 = .ok .rdChkout := rfl

/-- 0110 xxxxxxxx. -/
theorem test_decode_rdStat : decode 0b011000000000#12 = .ok .rdStat := rfl

/-- V19. -/
theorem test_decode_refuses_reads : decode 0x000#12 = .error (.wrongDirection 0x000#12) ∧
    decode 0x100#12 = .error (.wrongDirection 0x100#12) ∧ decode 0x400#12 = .error (.wrongDirection 0x400#12) ∧
    decode 0x700#12 = .error (.reservedOffset 0x700#12) := ⟨rfl, rfl, rfl, rfl⟩

/-- V19 and V18. -/
theorem test_decode_refuses_writes : decode 0xD12#12 = .error (.wrongDirection 0xD12#12) ∧
    decode 0xE00#12 = .error (.wrongDirection 0xE00#12) ∧ decode 0xF00#12 = .error (.reservedOffset 0xF00#12) ∧
    decode 0x8FF#12 = .error (.reservedCtrlBits 0x8FF#12) := ⟨rfl, rfl, rfl, rfl⟩

theorem test_decodeTableWord_rdStat : decodeTableWord 16 0x600 = some .rdStat := by decide

/-- A number past bit 11 is no transaction word. -/
theorem test_decodeTableWord_refuses_bit12 : decodeTableWord 16 0x1600 = none := by decide

/-! ### The functions -/

/-- V10, the rows with a carry out of bit 15. -/
theorem test_crcStep_corners : crcStep 0x8000#16 0x00#8 = 0x9188#16 ∧ crcStep 0xFFFF#16 0xFF#8 = 0xFF00#16 ∧
    crcStep 0x1234#16 0x56#8 = 0x3C40#16 := by decide

/-- V11, the whole SETUP frame. -/
theorem test_crc16_setup_frame : crc16 [0x24#8, 0x04#8, 0x31#8, 0xA5#8, 0xF1#8, 0x00#8] = (0x96#8, 0x6E#8) := by
  decide +kernel

/-- V3. -/
theorem test_twos8_vectors : twos8 0xE2#8 = 0x1E#8 ∧ twos8 0xFF#8 = 0x01#8 ∧ twos8 0x80#8 = 0x80#8 := by decide

/-! ### One transaction -/

/-- V18, 0x801. -/
theorem test_wrCtrl_clears_crc_alone :
    exec (.wrCtrl 0x01#8) (small 0x0530#16 0xE2#8 []) = .next (small 0x0000#16 0xE2#8 []) := rfl

/-- V18, 0x804: no partial effect. -/
theorem test_wrCtrl_refuses_reserved_bits :
    exec (.wrCtrl 0x04#8) (small 0x0530#16 0xE2#8 []) = .refused (.reserved (.reservedCtrlBits 0x804#12) 0) := rfl

/-- 40_crc R47, the example. -/
theorem test_wrCrcin_from_zero :
    exec (.wrCrcin 0x01#8) (small 0x0000#16 0x55#8 []) = .next (small 0x1021#16 0x55#8 []) := by
  have h : crcStep 0x0000#16 0x01#8 = 0x1021#16 := by decide
  simp only [exec, execWrCrcin, State.setCrc, small, h]

/-- V14. -/
theorem test_wrCrchi_keeps_low :
    exec (.wrCrchi 0xAB#8) (small 0x1021#16 0x55#8 []) = .next (small 0xAB21#16 0x55#8 []) := by
  have h : joinBytes 0xAB#8 (loByte 0x1021#16) = 0xAB21#16 := by decide
  simp only [exec, execWrCrchi, State.setCrc, small, h]

/-- V14. -/
theorem test_wrCrclo_keeps_high :
    exec (.wrCrclo 0xCD#8) (small 0xAB21#16 0x55#8 []) = .next (small 0xABCD#16 0x55#8 []) := by
  have h : joinBytes (hiByte 0xAB21#16) 0xCD#8 = 0xABCD#16 := by decide
  simp only [exec, execWrCrclo, State.setCrc, small, h]

/-- V15, carry discarded. -/
theorem test_wrChkin_wraps :
    exec (.wrChkin 0x01#8) (small 0x1234#16 0xFF#8 []) = .next (small 0x1234#16 0x00#8 []) := rfl

/-- V14. -/
theorem test_rdCrchi_returns_high : bytesReturned [.rdCrchi] (small 0xABCD#16 0x00#8 []) = some [0xAB#8] := by decide

/-- V14. -/
theorem test_rdCrclo_returns_low : bytesReturned [.rdCrclo] (small 0xABCD#16 0x00#8 []) = some [0xCD#8] := by decide

/-- 41_chk R60, the example. -/
theorem test_rdChkout_negates : bytesReturned [.rdChkout] (small 0x0000#16 0xE2#8 []) = some [0x1E#8] := by decide

/-- V17, `crc` = 0x1021. -/
theorem test_rdStat_chkz_alone : bytesReturned [.rdStat] (small 0x1021#16 0x00#8 []) = some [0x02#8] := by decide

/-- V17, `sum` = 0x55. -/
theorem test_rdStat_crcz_alone : bytesReturned [.rdStat] (small 0x0000#16 0x55#8 []) = some [0x01#8] := by decide

/-! ### One step -/

/-- P5, transaction 2: refused with its own index. -/
theorem test_step_refuses_with_index :
    step { withWords 0x1021#16 0x00#8 [0x100#12, 0x902#12] with index := 2 } =
      .refused (.reserved (.wrongDirection 0x100#12) 2) := rfl

/-- P6, transaction 7. -/
theorem test_step_performs_and_advances :
    step (withWords 0x0000#16 0x00#8 [0xCFF#12]) = .next ⟨0x0000#16, 0xFF#8, [], 1, []⟩ := rfl

/-- 70_reset_and_hazards R90. -/
theorem test_step_takes_the_reset_input :
    step (small 0xBEEF#16 0x77#8 [.resetInput, .transaction 0x600#12]) =
      .next (small 0x0000#16 0x00#8 [.transaction 0x600#12]) := rfl

/-- The host puts a word on the bus of the machine after reset. -/
theorem test_withFetchWord_runs_first :
    step (State.reset.withFetchWord 16 0xC7A) = .next ⟨0x0000#16, 0x7A#8, [], 1, []⟩ := rfl

/-! ### Assembly and host sequences -/

/-- 30_encoding R42's two lines, one with a comment. -/
theorem test_assemble_two_lines :
    assembleLine 1 "WR CRCIN, 0x41".toList = .ok [0x941#12] ∧
      assembleLine 2 "RD STAT ; flags".toList = .ok [0x600#12] := by decide +kernel

/-- 30_encoding R44: `RD CRCIN` is refused by name and line. -/
theorem test_assemble_refuses_direction :
    assembleLine 3 "RD CRCIN".toList = .error (.wrongDirection 3 .crcin) := by decide +kernel

/-- V16, the first record and its corrupted form. -/
theorem test_hex_record_check :
    hexRecordOk ⟨0x03#8, 0x0030#16, 0x00#8, [0x02#8, 0x33#8, 0x7A#8], 0x1E#8⟩ (small 0x1234#16 0x55#8 []) = true ∧
    hexRecordOk ⟨0x03#8, 0x0030#16, 0x00#8, [0x02#8, 0x33#8, 0x7A#8], 0x1F#8⟩ (small 0x1234#16 0x55#8 []) = false := by
  decide

/-- V21. -/
theorem test_verify_frame : verifyFrame [0x12#8, 0x34#8] =
    [0x24#8, 0x07#8, 0x34#8, 0x00#8, 0x00#8, 0x00#8, 0x01#8, 0x75#8, 0x28#8] := by decide +kernel

/-- V22. -/
theorem test_candidate_frame : candidateFrame 0x1234#16 0xFF#8 =
    [0x24#8, 0x07#8, 0x34#8, 0x12#8, 0x34#8, 0x12#8, 0x34#8, 0x1E#8, 0xF0#8] := by decide +kernel

/-! ### Witnesses: the hypotheses of the statements can be met -/

/-- Each kind of CTRL byte and word, and the example's state. -/
theorem test_witness_WrCtrlClearsTheChosenChannels :
    (0x03#8).extractLsb' 2 6 = 0#6 ∧ (0x04#8).extractLsb' 2 6 ≠ 0#6 ∧ (0x80#8).extractLsb' 2 6 ≠ 0#6 ∧
    (0x804#12 &&& 0xF00#12 = 0x800#12 ∧ (0x804#12).extractLsb' 2 6 ≠ 0#6) ∧
    (small 0x0530#16 0xE2#8 []).crc = 0x0530#16 ∧ (small 0x0530#16 0xE2#8 []).sum = 0xE2#8 := by decide

/-- The example's states of WR CRCIN, WR CRCHI, WR CRCLO, RD CRCHI and RD CRCLO. -/
theorem test_witness_crc_examples :
    (small 0x0000#16 0x00#8 []).crc = 0x0000#16 ∧ (small 0x1021#16 0x00#8 []).crc = 0x1021#16 ∧
    (small 0xAB21#16 0x00#8 []).crc = 0xAB21#16 ∧ (small 0x0530#16 0x00#8 []).crc = 0x0530#16 := by decide

/-- The example's states of WR CHKIN and RD CHKOUT, and RD STAT's. -/
theorem test_witness_chk_examples :
    (small 0x1021#16 0xFF#8 []).sum = 0xFF#8 ∧ (small 0x1021#16 0x00#8 []).sum = 0x00#8 ∧
    (small 0x1021#16 0x80#8 []).sum = 0x80#8 ∧ (small 0x1021#16 0xE2#8 []).sum = 0xE2#8 ∧
    ((small 0x1021#16 0x00#8 []).crc = 0x1021#16 ∧ (small 0x1021#16 0x00#8 []).sum = 0x00#8) := by decide

/-- V16, the first record. -/
theorem test_witness_RdStatReturnsTheZeroFlags : ∃ r : HexRecord,
    r.checksum = twos8 (r.preceding.foldl (· + ·) 0x00#8) :=
  ⟨⟨0x03#8, 0x0030#16, 0x00#8, [0x02#8, 0x33#8, 0x7A#8], 0x1E#8⟩, by decide⟩

theorem test_witness_DecodeAndEncodeAgree :
    (Instr.wrCtrl 0x03#8).wellFormed = true ∧ decode 0x35A#12 = .ok .rdCrclo := ⟨rfl, rfl⟩

/-- A word that is refused is no transaction. -/
theorem ne_ok_of_error {w : TxnWord} {why : RefusalReason} (h : decode w = .error why) (i : Instr) : decode w ≠ .ok i := by
  simp [h]

/-- One word of each reason. -/
theorem test_witness_RefusalReasonFollowsThePriority :
    (∀ i, decode 0xF00#12 ≠ .ok i) ∧ (∀ i, decode 0x100#12 ≠ .ok i) ∧ (∀ i, decode 0xD12#12 ≠ .ok i) ∧
    (∀ i, decode 0x804#12 ≠ .ok i) :=
  ⟨ne_ok_of_error (why := .reservedOffset 0xF00#12) rfl, ne_ok_of_error (why := .wrongDirection 0x100#12) rfl,
    ne_ok_of_error (why := .wrongDirection 0xD12#12) rfl, ne_ok_of_error (why := .reservedCtrlBits 0x804#12) rfl⟩

theorem test_witness_StepRunsTheDecodedTransaction :
    (withWords 0x0000#16 0x00#8 [0xC01#12]).pending = .transaction 0xC01#12 :: [] ∧
      decode 0xC01#12 = .ok (.wrChkin 0x01#8) := ⟨rfl, rfl⟩

theorem test_witness_ResetEventClearsBothChannels :
    (small 0xBEEF#16 0x77#8 [.resetInput]).pending = .resetInput :: [] := rfl

theorem test_witness_HostSideWithoutATransaction :
    (small 0xBEEF#16 0x77#8 []).pending = [] ∧
      (small 0xBEEF#16 0x77#8 [.resetInput]).pending = .resetInput :: [] := ⟨rfl, rfl⟩

/-- A legal word and a reserved one. -/
theorem test_witness_EveryLegalTransactionCompletes :
    Instr.rdStat.wellFormed = true ∧
    (withWords 0x0000#16 0x00#8 [0x600#12]).pending = .transaction 0x600#12 :: [] ∧
    (withWords 0x0000#16 0x00#8 [0x700#12]).pending = .transaction 0x700#12 :: [] := ⟨rfl, rfl, rfl⟩

/-- A run of two transactions, and one of the reset event, a transaction and an idle step. -/
theorem test_witness_EveryRunHasItsAccount :
    run 2 (withWords 0x0000#16 0x10#8 [0xC01#12, 0x500#12]) = .next ⟨0x0000#16, 0x11#8, [], 2, [0xEF#8]⟩ ∧
    run 3 (small 0xBEEF#16 0x77#8 [.resetInput, .transaction 0x600#12]) = .next ⟨0x0000#16, 0x00#8, [], 1, [0x03#8]⟩ :=
  ⟨rfl, rfl⟩

/-- A run one event in, with one more to come. -/
theorem test_witness_EveryStepKeepsTheAccount :
    AccountsFor (withWords 0x0000#16 0x10#8 [0xC01#12, 0x500#12]) ⟨0x0000#16, 0x11#8, [.transaction 0x500#12], 1, []⟩ ∧
    step ⟨0x0000#16, 0x11#8, [.transaction 0x500#12], 1, []⟩ = .next ⟨0x0000#16, 0x11#8, [], 2, [0xEF#8]⟩ :=
  ⟨⟨[.transaction 0xC01#12], by decide⟩, rfl⟩

theorem test_witness_RunPerformsTheProgramInOrder :
    (∀ i ∈ [Instr.wrChkin 0x01#8, .rdStat], i.wellFormed = true) ∧
    (withWords 0x0000#16 0x00#8 [0xC01#12, 0x600#12, 0x700#12]).pending =
      ([Instr.wrChkin 0x01#8, .rdStat].map fun i => HostEvent.transaction (encode i)) ++ [.transaction 0x700#12] := by
  decide

/-- P5, from its second transaction on. -/
theorem test_witness_ReservedWordStopsTheRunAtItsIndex :
    (∀ i ∈ [Instr.wrCrcin 0x01#8], i.wellFormed = true) ∧
    decode 0x100#12 = .error (.wrongDirection 0x100#12) ∧
    (withWords 0x0000#16 0x00#8 [0x901#12, 0x100#12, 0x902#12]).pending =
      ([Instr.wrCrcin 0x01#8].map fun i => HostEvent.transaction (encode i)) ++
        .transaction 0x100#12 :: [.transaction 0x902#12] := ⟨by decide, rfl, rfl⟩

/-- A transaction of each clause; the last one changes both channels. -/
theorem test_witness_ChannelsAreIndependent :
    exec (.wrCrclo 0xCD#8) (small 0xAB21#16 0x55#8 []) = .next (small 0xABCD#16 0x55#8 []) ∧
    exec (.wrChkin 0x01#8) (small 0x1234#16 0xFF#8 []) = .next (small 0x1234#16 0x00#8 []) ∧
    exec (.wrCtrl 0x03#8) (small 0x0530#16 0xE2#8 []) = .next (small 0x0000#16 0x00#8 []) :=
  ⟨test_wrCrclo_keeps_high, rfl, rfl⟩

/-- Two states that differ in one channel and agree in all else the clause asks for; each run goes on, or is refused. -/
theorem test_witness_ChannelsLeakNothingIntoEachOther :
    (run 1 (withWords 0x1234#16 0x00#8 [0x500#12]) = .next ⟨0x1234#16, 0x00#8, [], 1, [0x00#8]⟩ ∧
      (withWords 0x1234#16 0x99#8 [0x500#12]).crc = (withWords 0x1234#16 0x00#8 [0x500#12]).crc ∧
      (withWords 0x1234#16 0x99#8 [0x500#12]).pending = (withWords 0x1234#16 0x00#8 [0x500#12]).pending ∧
      (withWords 0x1234#16 0x99#8 [0x500#12]).index = (withWords 0x1234#16 0x00#8 [0x500#12]).index) ∧
    ((withWords 0x4321#16 0x00#8 [0x500#12]).sum = (withWords 0x1234#16 0x00#8 [0x500#12]).sum ∧
      (withWords 0x4321#16 0x00#8 [0x500#12]).pending = (withWords 0x1234#16 0x00#8 [0x500#12]).pending ∧
      (withWords 0x4321#16 0x00#8 [0x500#12]).index = (withWords 0x1234#16 0x00#8 [0x500#12]).index) ∧
    run 1 (withWords 0x1234#16 0x00#8 [0x700#12]) = .refused (.reserved (.reservedOffset 0x700#12) 0) :=
  ⟨⟨rfl, rfl, rfl, rfl⟩, ⟨rfl, rfl, rfl⟩, rfl⟩

theorem test_witness_InterleavingChangesNeitherChannel :
    ∀ i ∈ [Instr.wrCtrl 0x03#8, .wrCrcin 0x41#8, .wrChkin 0x41#8, .rdStat], i.wellFormed = true := by decide

theorem test_witness_OnlyTheFeedingWritesAreNotIdempotent :
    Instr.rdChkout ∈ [Instr.rdCrchi, .rdCrclo, .rdChkout, .rdStat] ∧
    Instr.wrCrclo 0xCD#8 ∈ [Instr.wrCtrl 0xCD#8, .wrCrchi 0xCD#8, .wrCrclo 0xCD#8] ∧
    exec (.wrCrclo 0xCD#8) (small 0xAB21#16 0x55#8 []) = .next (small 0xABCD#16 0x55#8 []) :=
  ⟨by decide, by decide, test_wrCrclo_keeps_high⟩

theorem test_witness_SingleByteCrcsAreDistinct : (0x00#8 : Byte) ≠ 0xFF#8 ∧ (0x01#8 : Byte) ≠ 0x00#8 := by decide

theorem test_witness_SumIsExactModulo256InAnyOrder : [0xFF#8, 0x01#8].Perm [0x01#8, 0xFF#8] := by decide

/-- A CHK computation in the midst of a CRC computation. -/
theorem test_witness_EngineSequenceComputesCrcSixteen :
    (∀ i ∈ [Instr.wrCtrl 0x02#8, .wrCtrl 0x01#8, .wrChkin 0x07#8, .wrCrcin 0x41#8, .rdChkout, .rdCrchi, .rdStat, .rdCrclo],
      i.wellFormed = true) ∧
    [Instr.wrCtrl 0x02#8, .wrCtrl 0x01#8, .wrChkin 0x07#8, .wrCrcin 0x41#8, .rdChkout, .rdCrchi, .rdStat,
      .rdCrclo].filter touchesCrc = crcRst ++ crcFeedSeq [0x41#8] ++ crcGet := by decide

/-- One data record of 16 bytes: `k = 0` is below `16 / 16`. -/
theorem test_witness_HexOutputRecordsPassTheirCheck : 0 < (List.replicate 16 0x00#8).length / 16 := by decide

/-- V21: one byte follows byte 0; and the largest image. -/
theorem test_witness_VerifyFrameCarriesTheDeferredImageCrc :
    [0x34#8].length < 65536 ∧ (List.replicate 65535 0x00#8).length < 65536 :=
  ⟨by decide, by rw [List.length_replicate]; decide⟩

/-- The whole of a flash of two bytes, and one byte of it. -/
theorem test_witness_DeviceVerifyConfirmsTheRangeCrc :
    ((0x0000#16).toNat ≤ (0x0001#16).toNat ∧ (0x0001#16).toNat < [0x12#8, 0x34#8].length) ∧
    ((0x0001#16).toNat ≤ (0x0001#16).toNat ∧ (0x0001#16).toNat < [0x12#8, 0x34#8].length) := by decide

/-- A channel to a device that verifies as 45_composite_sequences R71 says, and confirms nothing else. -/
def goodDevice (flash : List Byte) : Channel := fun _ f =>
  if deviceConfirms flash (f.drop 3) = some true then 64#8 else 0#8

theorem test_witness_ReadBackRecoversTheTrueByte :
    [0x41#8][(0x0000#16).toNat]? = some 0x41#8 ∧
    ∀ n k, goodDevice [0x41#8] n (candidateFrame 0x0000#16 k) = 64#8 ↔
      deviceConfirms [0x41#8] ((candidateFrame 0x0000#16 k).drop 3) = some true :=
  ⟨rfl, fun n k => by simp only [goodDevice]; split <;> simp_all⟩

/-- 45_composite_sequences R71: the modelled device confirms the right CRC of its one byte (V11, `[0x41]`). -/
theorem test_device_confirms_v11 :
    verifyVerdict [0x41#8] (candidateFrame 0x0000#16 0x41#8) = some true ∧
    verifyVerdict [0x41#8] (candidateFrame 0x0000#16 0x42#8) = some false ∧
    verifyVerdict [0x41#8] (candidateFrame 0x0001#16 0x41#8) = none := by decide +kernel

/-- `start > end`, and a range past the flash; frames confirmed before; an address past the flash. -/
theorem test_witness_HostRefusesVerifyOffTheFlash :
    (∀ k f, [setupFrame][k]? = some f → sendable 2 f = true ∧ (fun _ _ => 64#8 : Channel) (0 + k) f = 64#8) ∧
    ((0x0000#16).toNat < (0x0001#16).toNat ∧ 2 ≤ (0x0002#16).toNat) := by
  refine ⟨fun k f h => ?_, by decide⟩
  match k, h with
  | 0, h => cases h; exact ⟨by decide, rfl⟩

/-- A record of each kind the clauses name: V16's first, an unsupported type, a type-04 value that is not zero, and the
EOF record. -/
theorem test_witness_HexDecoderRaisesItsErrors :
    (⟨0x03#8, 0x0030#16, 0x00#8, [0x02#8, 0x33#8, 0x7A#8], 0x1F#8⟩ : HexRecord).kind = 0x00#8 ∧
    (⟨0x00#8, 0x0000#16, 0x02#8, [], 0x00#8⟩ : HexRecord).kind ∉ [0x00#8, 0x01#8, 0x04#8] ∧
    ((hexRecordOf 0x04#8 0x0000#16 [0x00#8, 0x01#8]).kind = 0x04#8 ∧
      (hexRecordOf 0x04#8 0x0000#16 [0x00#8, 0x01#8]).payload ≠ [0x00#8, 0x00#8]) ∧
    ((hexRecordOf 0x01#8 0x0000#16 []).kind = 0x01#8 ∧ (((hexRecordOf 0x01#8 0x0000#16 []).preceding.map BitVec.toNat).sum +
      (hexRecordOf 0x01#8 0x0000#16 []).checksum.toNat) % 256 = 0) := by decide

/-- A message fed right after a reset event. -/
theorem test_witness_SeededCrcStartsFromTheSeed :
    (small 0xBEEF#16 0x77#8 [.resetInput]).pending = .resetInput :: [] := rfl

/-- A channel that confirms the candidate 0 everywhere, by the CRC the frame carries. -/
def zeroDevice : Channel := fun _ f => if f.drop 7 = [0x00#8, 0x00#8] then 64#8 else 0#8

theorem test_witness_ReadBackTriesEveryCandidateInOrder :
    ((0xFFFF#16).toNat < 65536 ∧ (0xFFFE#16).toNat + 2 ≤ 65536) ∧
    (∀ k f, (fun _ _ => 0#8 : Channel) k f ≠ 64#8) ∧
    (∀ x b j, zeroDevice x (candidateFrame b j) = 64#8 ↔ j = 0x00#8) := by
  refine ⟨by decide, fun _ _ => (by decide : (0#8 : Byte) ≠ 64#8), fun x b j => ?_⟩
  have h : ∀ j : Byte, [(crc16 [j]).1, (crc16 [j]).2] = [0x00#8, 0x00#8] ↔ j = 0x00#8 := by decide +kernel
  have hd : (candidateFrame b j).drop 7 = [(crc16 [j]).1, (crc16 [j]).2] := rfl
  rw [← h j]
  simp only [zeroDevice, hd]
  split <;> simp_all

/-- The smallest image, and the one of V5 (1000 bytes), whose page 4 is below its 8 pages. -/
theorem test_witness_FrameSequenceHasItsOrderAndCount :
    ([] : List Byte).length < 65536 ∧ (List.replicate 999 0x00#8).length < 65536 ∧
    4 < ((List.replicate 999 0x00#8).length + 1 + 127) / 128 := by
  refine ⟨by decide, ?_, ?_⟩ <;> rw [List.length_replicate] <;> decide

/-- A channel that confirms the frame at position 5 alone. -/
def fifthOnly : Channel := fun n _ => if n = 5 then 64#8 else 0#8

/-- All confirmed; and both kinds of frame that is sent and not confirmed. -/
theorem test_witness_FirstUnconfirmedFrameStopsTheDriver :
    (∀ k f, [setupFrame][k]? = some f → sendable 1 f = true ∧ fifthOnly (5 + k) f = 64#8) ∧
    (sendable 1 (candidateFrame 0x0000#16 0x41#8) = true ∧
      fifthOnly (5 + [setupFrame].length) (candidateFrame 0x0000#16 0x41#8) ≠ 64#8) ∧
    (sendable 1 runFrame = true ∧ fifthOnly (5 + [setupFrame].length) runFrame ≠ 64#8) := by
  refine ⟨fun k f h => ?_, by decide +kernel, by decide⟩
  match k, h with
  | 0, h => cases h; exact ⟨by decide, rfl⟩

theorem test_witness_TranscriberRefusesByNameAndLine :
    Register.stat ∈ [Register.chkout, .stat] ∧ Register.ctrl ∈ [Register.ctrl, .crcin, .chkin] ∧
    (Register.ctrl ∈ [Register.ctrl, .crcin, .crchi, .crclo, .chkin] ∧ 256 ≤ 256 ∧ 255 < 256) ∧
    Register.crclo ∈ [Register.crchi, .crclo, .chkout, .stat] := by decide

end Sys2Proof.Tests
end

section
/-! The CRC channel as arithmetic of polynomials over GF(2) (spec 00_scope R6, 40_crc R45, R53 to R55): what XOR and a shift
are on the polynomial of a word, the congruence of one CRC step modulo `P`, and the CRC of a message as a remainder. -/

namespace Sys2Proof.CrcPolynomial

open Polynomial Sys2Proof.Machine Sys2Proof.Safety

/-! ### The polynomial of a word -/

theorem coeff_gf2Poly {n : Nat} (v : BitVec n) (i : Nat) :
    (gf2Poly v).coeff i = if v.getLsbD i then 1 else 0 := by
  have hterm : ∀ j, (if v.getLsbD j then (X : (ZMod 2)[X]) ^ j else 0).coeff i =
      if i = j then (if v.getLsbD i then 1 else 0) else 0 := by
    intro j
    by_cases hij : i = j
    · subst hij
      cases v.getLsbD i <;> simp
    · cases v.getLsbD j <;> simp [coeff_X_pow, hij]
  rw [gf2Poly, finsetSum_coeff, Finset.sum_congr rfl fun j _ => hterm j, Finset.sum_ite_eq]
  by_cases hi : i < n
  · simp [hi]
  · simp [hi, BitVec.getLsbD_of_ge v i (by omega)]

@[simp] theorem gf2Poly_zero (n : Nat) : gf2Poly 0#n = 0 := by simp [gf2Poly]

theorem gf2Poly_xor {n : Nat} (v w : BitVec n) : gf2Poly (v ^^^ w) = gf2Poly v + gf2Poly w := by
  ext i
  rw [coeff_add, coeff_gf2Poly, coeff_gf2Poly, coeff_gf2Poly, BitVec.getLsbD_xor]
  cases v.getLsbD i <;> cases w.getLsbD i <;> decide

theorem degree_gf2Poly_lt {n : Nat} (v : BitVec n) : (gf2Poly v).degree < n := by
  rw [degree_lt_iff_coeff_zero]
  intro i hi
  simp [coeff_gf2Poly, BitVec.getLsbD_of_ge v i hi]

/-- A shift by one is a product with `X`, but for the top bit, which the shift drops. -/
theorem gf2Poly_mul_X {n : Nat} (v : BitVec (n + 1)) :
    gf2Poly v * X = gf2Poly (v <<< 1) + if v.getLsbD n then X ^ (n + 1) else 0 := by
  ext i
  rw [coeff_add, coeff_gf2Poly, BitVec.getLsbD_shiftLeft]
  cases i with
  | zero => cases v.getLsbD n <;> simp
  | succ i =>
    rw [coeff_mul_X, coeff_gf2Poly]
    obtain hlt | rfl | hgt := Nat.lt_trichotomy i n
    · cases v.getLsbD n <;> simp [coeff_X_pow, hlt, hlt.ne]
    · cases v.getLsbD i <;> simp
    · cases v.getLsbD n <;> simp [coeff_X_pow, hgt.ne', hgt.not_gt, BitVec.getLsbD_of_ge v i (by omega)]

/-- A fed byte stands in the high half of the word, so as a polynomial it is multiplied by `X ^ 8` (40_crc R45). -/
theorem gf2Poly_crcOperand (b : Byte) : gf2Poly (crcOperand b) = gf2Poly b * X ^ 8 := by
  ext i
  rw [coeff_gf2Poly, coeff_mul_X_pow', coeff_gf2Poly, crcOperand, BitVec.getLsbD_shiftLeft, BitVec.getLsbD_setWidth]
  by_cases hlow : i < 8
  · simp [hlow]
  · by_cases htop : i < 16
    · simp [hlow, htop, show i - 8 < 16 by omega, show 8 ≤ i by omega]
    · simp [htop, BitVec.getLsbD_of_ge b (i - 8) (by omega)]

/-! ### The modulus -/

theorem crcModulus_eq : crcModulus = X ^ 16 + gf2Poly Config.crcPoly := by
  have hlow : gf2Poly Config.crcPoly = 1 + X ^ 5 + X ^ 12 := by
    simp [gf2Poly, Config.crcPoly, Finset.sum_range_succ]
  rw [crcModulus, hlow]
  ring

theorem crcModulus_monic : crcModulus.Monic := by
  rw [crcModulus_eq]
  exact monic_X_pow_add (degree_gf2Poly_lt Config.crcPoly)

theorem degree_crcModulus : crcModulus.degree = 16 := by
  have hlow : (gf2Poly Config.crcPoly).degree < (X ^ 16 : (ZMod 2)[X]).degree := by
    rw [degree_X_pow]
    exact degree_gf2Poly_lt Config.crcPoly
  rw [crcModulus_eq, degree_add_eq_left_of_degree_lt hlow, degree_X_pow]
  rfl

/-- Every value of `crc` is its own remainder, so it is the remainder of whatever it is congruent to. -/
theorem gf2Poly_eq_modByMonic {c : CrcWord} {p : (ZMod 2)[X]}
    (h : AdjoinRoot.mk crcModulus (gf2Poly c) = AdjoinRoot.mk crcModulus p) : gf2Poly c = p %ₘ crcModulus := by
  have hself : gf2Poly c %ₘ crcModulus = gf2Poly c := by
    rw [modByMonic_eq_self_iff crcModulus_monic, degree_crcModulus]
    exact degree_gf2Poly_lt c
  rw [← hself]
  exact modByMonic_eq_of_dvd_sub crcModulus_monic (AdjoinRoot.mk_eq_mk.mp h)

/-! ### Congruence modulo `P`: one shift, one step, a message

Polynomials are congruent modulo `P` when `AdjoinRoot.mk crcModulus` sends them to the same element of the quotient ring. -/

/-- One shift multiplies by `X` and takes `P` away when bit 15 was set (40_crc R45). -/
theorem gf2Poly_crcShift (c : CrcWord) :
    gf2Poly c * X = gf2Poly (crcShift c) + if c.getLsbD 15 then crcModulus else 0 := by
  rw [gf2Poly_mul_X, crcShift]
  by_cases htop : c.getLsbD 15
  · rw [if_pos htop, if_pos htop, if_pos htop, gf2Poly_xor, crcModulus_eq]
    have hcancel := CharTwo.add_self_eq_zero (gf2Poly Config.crcPoly)
    linear_combination -hcancel
  · rw [if_neg htop, if_neg htop, if_neg htop]

theorem mk_gf2Poly_crcShift (c : CrcWord) :
    AdjoinRoot.mk crcModulus (gf2Poly (crcShift c)) = AdjoinRoot.mk crcModulus (gf2Poly c * X) := by
  rw [gf2Poly_crcShift, map_add, apply_ite (AdjoinRoot.mk crcModulus), AdjoinRoot.mk_self, map_zero, ite_self, add_zero]

theorem mk_gf2Poly_crcShifts (n : Nat) (c : CrcWord) :
    AdjoinRoot.mk crcModulus (gf2Poly (crcShifts n c)) = AdjoinRoot.mk crcModulus (gf2Poly c * X ^ n) := by
  induction n generalizing c with
  | zero => simp [crcShifts]
  | succ n ih => rw [crcShifts, ih, map_mul, mk_gf2Poly_crcShift, ← map_mul, mul_assoc, ← pow_succ']

theorem mk_gf2Poly_crcStep (c : CrcWord) (b : Byte) :
    AdjoinRoot.mk crcModulus (gf2Poly (crcStep c b)) =
      AdjoinRoot.mk crcModulus (gf2Poly c * X ^ 8 + gf2Poly b * X ^ 16) := by
  have hpoly : (gf2Poly c + gf2Poly b * X ^ 8) * X ^ 8 = gf2Poly c * X ^ 8 + gf2Poly b * X ^ 16 := by ring
  rw [crcStep, mk_gf2Poly_crcShifts, gf2Poly_xor, gf2Poly_crcOperand, hpoly]

theorem messagePoly_append_singleton (m : List Byte) (b : Byte) :
    messagePoly (m ++ [b]) = messagePoly m * X ^ 8 + gf2Poly b := by
  simp [messagePoly]

/-- The message enters at the low end, so the induction takes its last byte off. -/
theorem mk_gf2Poly_crcFeed (c : CrcWord) (m : List Byte) :
    AdjoinRoot.mk crcModulus (gf2Poly (crcFeed c m)) =
      AdjoinRoot.mk crcModulus (gf2Poly c * X ^ (8 * m.length) + messagePoly m * X ^ 16) := by
  induction m using List.reverseRecOn with
  | nil => simp [messagePoly]
  | append_singleton m b ih =>
    have hpoly : (gf2Poly c * X ^ (8 * m.length) + messagePoly m * X ^ 16) * X ^ 8 + gf2Poly b * X ^ 16 =
        gf2Poly c * X ^ (8 * (m ++ [b]).length) + messagePoly (m ++ [b]) * X ^ 16 := by
      rw [messagePoly_append_singleton, List.length_append, List.length_singleton]
      ring
    rw [crcFeed_append, crcFeed_cons, crcFeed_nil, mk_gf2Poly_crcStep, map_add, map_mul, ih, ← map_mul, ← map_add, hpoly]

/-! ### The remainders themselves -/

theorem gf2Poly_crcStep (c : CrcWord) (b : Byte) :
    gf2Poly (crcStep c b) = (gf2Poly c * X ^ 8 + gf2Poly b * X ^ 16) %ₘ crcModulus :=
  gf2Poly_eq_modByMonic (mk_gf2Poly_crcStep c b)

/-- From any start value, which counts as a message before the message (40_crc R55, R56). -/
theorem gf2Poly_crcFeed (c : CrcWord) (m : List Byte) :
    gf2Poly (crcFeed c m) = (gf2Poly c * X ^ (8 * m.length) + messagePoly m * X ^ 16) %ₘ crcModulus :=
  gf2Poly_eq_modByMonic (mk_gf2Poly_crcFeed c m)

/-- Settles O38: a step is congruent to its polynomial modulo `P`, a message by induction on its last byte, and a word of 16
bits is its own remainder. -/
theorem crcIsThePolynomialRemainder : Obligations.CrcIsThePolynomialRemainder := by
  refine ⟨gf2Poly_crcStep, fun m => ?_⟩
  rw [gf2Poly_crcFeed, gf2Poly_zero, zero_mul, zero_add]

end Sys2Proof.CrcPolynomial
end

section
/-! Facts that the statements about steps and runs share: what the decoder answers on a row of the opcode map, which
transactions complete and what a completed one leaves in each channel, and one equation or inversion for each of `step`, `run`
and `perform` (spec 10_state R11, R12, R16; 20_memory R31; 30_encoding R38, R40; 60_exceptions R78, R80). -/

namespace Sys2Proof.StepFacts

open Sys2Proof.Machine Sys2Proof.Safety

/-! ### The decoder -/

/-- Every row's mask holds bits 11:8, the fields `W` and `A`. -/
theorem mask_and_of_mem_opcodeRows : ∀ r ∈ opcodeRows, r.mask &&& 0xF00#12 = 0xF00#12 := by decide

/-- The rows differ in the fields `W` and `A`. -/
theorem nodup_opcodeRows_top : (opcodeRows.map fun r => r.value &&& 0xF00#12).Nodup := by decide

theorem top_eq_of_matches {r : OpcodeRow} {w : TxnWord} (hr : r ∈ opcodeRows) (hm : r.matches w = true) :
    r.value &&& 0xF00#12 = w &&& 0xF00#12 := by
  have hvalue : w &&& r.mask = r.value := by simpa [OpcodeRow.matches] using hm
  rw [← hvalue, BitVec.and_assoc, mask_and_of_mem_opcodeRows r hr]

/-- No word lies in two rows: its fields `W` and `A` choose the row. -/
theorem opcodeRow_unique {r r' : OpcodeRow} {w : TxnWord} (hr : r ∈ opcodeRows) (hr' : r' ∈ opcodeRows)
    (hm : r.matches w = true) (hm' : r'.matches w = true) : r = r' :=
  List.inj_on_of_nodup_map nodup_opcodeRows_top hr hr'
    ((top_eq_of_matches hr hm).trans (top_eq_of_matches hr' hm').symm)

theorem decode_eq_ok_iff {w : TxnWord} {i : Instr} :
    decode w = .ok i ↔ ∃ r ∈ opcodeRows, r.matches w = true ∧ r.build (fieldD w) = i := by
  unfold decode
  cases hfind : opcodeRows.find? (fun r => r.matches w) with
  | none =>
    have hno := List.find?_eq_none.1 hfind
    simp only [reduceCtorEq, false_iff]
    rintro ⟨r, hr, hm, -⟩
    exact hno r hr hm
  | some r =>
    have hr := List.mem_of_find?_eq_some hfind
    have hm := List.find?_some hfind
    constructor
    · rintro ⟨⟩
      exact ⟨r, hr, hm, rfl⟩
    · rintro ⟨r', hr', hm', rfl⟩
      rw [opcodeRow_unique hr hr' hm hm']

/-- The family of Laws/PerInstr.lean, for whatever transaction. -/
theorem encodingRow (i : Instr) : Laws.EncodingRow.Statement i := by
  cases i with
  | wrCtrl d => exact Laws.EncodingRow.wrCtrl d
  | wrCrcin d => exact Laws.EncodingRow.wrCrcin d
  | wrCrchi d => exact Laws.EncodingRow.wrCrchi d
  | wrCrclo d => exact Laws.EncodingRow.wrCrclo d
  | wrChkin d => exact Laws.EncodingRow.wrChkin d
  | rdCrchi => exact Laws.EncodingRow.rdCrchi
  | rdCrclo => exact Laws.EncodingRow.rdCrclo
  | rdChkout => exact Laws.EncodingRow.rdChkout
  | rdStat => exact Laws.EncodingRow.rdStat

theorem decode_encode {i : Instr} (h : i.wellFormed = true) : decode (encode i) = .ok i :=
  decode_eq_ok_iff.2 (encodingRow i h)

/-- The data byte of a word in the row of WR CTRL has its reserved bits at 0 (30_encoding R38, 10_state R18). -/
theorem ctrlReservedClear_fieldD {w : TxnWord} (h : w &&& 0xFFC#12 = 0x800#12) : ctrlReservedClear (fieldD w) = true := by
  have hbyte : fieldD (w &&& 0xFFC#12) = fieldD w &&& 0xFC#8 := BitVec.extractLsb'_and
  rw [h] at hbyte
  simp only [ctrlReservedClear, ← hbyte]
  decide

/-- The decoder answers well-formed transactions only, so nothing it answers is refused by its meaning. -/
theorem wellFormed_of_decode {w : TxnWord} {i : Instr} (h : decode w = .ok i) : i.wellFormed = true := by
  obtain ⟨r, hr, hm, rfl⟩ := decode_eq_ok_iff.1 h
  simp only [opcodeRows, List.mem_cons, List.not_mem_nil, or_false] at hr
  obtain rfl | rfl | rfl | rfl | rfl | rfl | rfl | rfl | rfl := hr
  · exact ctrlReservedClear_fieldD (by simpa [OpcodeRow.matches] using hm)
  all_goals rfl

/-! ### Which transactions complete -/

theorem exec_of_wellFormed {i : Instr} (h : i.wellFormed = true) (s : State) : ∃ t, exec i s = .next t := by
  cases i with
  | wrCtrl d => exact ⟨_, if_pos h⟩
  | _ => exact ⟨_, rfl⟩

theorem wellFormed_of_exec {i : Instr} {s t : State} (h : exec i s = .next t) : i.wellFormed = true := by
  rcases exec_next_cases h with ⟨d, rfl, hd, -⟩ | ⟨d, rfl, -⟩ | ⟨d, rfl, -⟩ | ⟨d, rfl, -⟩ | ⟨d, rfl, -⟩ |
    ⟨rfl, -⟩ | ⟨rfl, -⟩ | ⟨rfl, -⟩ | ⟨rfl, -⟩
  · exact hd
  all_goals rfl

/-! ### The values that a channel's history stands for -/

@[simp] theorem crcValue_start (c : CrcWord) : crcValue ⟨c, []⟩ = c := rfl

@[simp] theorem crcValue_feed (h : History CrcWord) (d : Byte) :
    crcValue ⟨h.start, h.fed ++ [d]⟩ = crcStep (crcValue h) d := crcFeed_append h.start h.fed [d]

@[simp] theorem sumValue_start (v : Byte) : sumValue ⟨v, []⟩ = v := by simp [sumValue]

@[simp] theorem sumValue_feed (h : History Byte) (d : Byte) :
    sumValue ⟨h.start, h.fed ++ [d]⟩ = sumValue h + d := by
  simp [sumValue, ← Nat.add_assoc, BitVec.ofNat_add]

/-! ### What a completed transaction leaves in each channel, and what it returns -/

/-- A history of `crc` extended by a transaction stands for what the transaction leaves in `crc` (10_state R11). -/
theorem exec_crc {i : Instr} {s t : State} {log : History CrcWord} (h : exec i s = .next t) (hlog : s.crc = crcValue log) :
    t.crc = crcValue (crcRecord log i) := by
  rcases exec_next_cases h with ⟨d, rfl, -, rfl⟩ | ⟨d, rfl, rfl⟩ | ⟨d, rfl, rfl⟩ | ⟨d, rfl, rfl⟩ | ⟨d, rfl, rfl⟩ |
    ⟨rfl, rfl⟩ | ⟨rfl, rfl⟩ | ⟨rfl, rfl⟩ | ⟨rfl, rfl⟩
  case inl => simp [crcRecord, crcClr, apply_ite crcValue, hlog, Config.crcInit]
  all_goals simp [crcRecord, hlog]

/-- A history of `sum` extended by a transaction stands for what the transaction leaves in `sum` (10_state R12). -/
theorem exec_sum {i : Instr} {s t : State} {log : History Byte} (h : exec i s = .next t) (hlog : s.sum = sumValue log) :
    t.sum = sumValue (sumRecord log i) := by
  rcases exec_next_cases h with ⟨d, rfl, -, rfl⟩ | ⟨d, rfl, rfl⟩ | ⟨d, rfl, rfl⟩ | ⟨d, rfl, rfl⟩ | ⟨d, rfl, rfl⟩ |
    ⟨rfl, rfl⟩ | ⟨rfl, rfl⟩ | ⟨rfl, rfl⟩ | ⟨rfl, rfl⟩
  case inl => simp [sumRecord, chkClr, apply_ite sumValue, hlog, Config.sumInit]
  all_goals simp [sumRecord, hlog]

theorem hiByte_eq_ofNat (c : CrcWord) : hiByte c = BitVec.ofNat 8 (c.toNat / 256) := by
  rw [← hiByte_toNat, BitVec.ofNat_toNat, BitVec.setWidth_eq]

theorem loByte_eq_ofNat (c : CrcWord) : loByte c = BitVec.ofNat 8 (c.toNat % 256) := by
  rw [← loByte_toNat, BitVec.ofNat_toNat, BitVec.setWidth_eq]

theorem twos8_eq_ofNat : ∀ v : Byte, twos8 v = BitVec.ofNat 8 (256 - v.toNat) := by decide

theorem statByte_eq_ofNat (s : State) :
    statByte s = BitVec.ofNat 8 ((if s.sum = 0x00#8 then 2 else 0) + (if s.crc = 0x0000#16 then 1 else 0)) := by
  by_cases hsum : s.sum = 0x00#8 <;> by_cases hcrc : s.crc = 0x0000#16 <;>
    simp [statByte, chkz, crcz, beq_eq_decide, hsum, hcrc]

/-- The bytes a transaction returns are those that the two channels give (30_encoding R36). -/
theorem exec_returned {i : Instr} {s t : State} (h : exec i s = .next t) :
    t.returned = s.returned ++ answerOf s.crc s.sum i := by
  rcases exec_next_cases h with ⟨d, rfl, -, rfl⟩ | ⟨d, rfl, rfl⟩ | ⟨d, rfl, rfl⟩ | ⟨d, rfl, rfl⟩ | ⟨d, rfl, rfl⟩ |
    ⟨rfl, rfl⟩ | ⟨rfl, rfl⟩ | ⟨rfl, rfl⟩ | ⟨rfl, rfl⟩ <;>
  simp [answerOf, hiByte_eq_ofNat, loByte_eq_ofNat, twos8_eq_ofNat, statByte_eq_ofNat]

/-! ### One step -/

theorem step_idle {s : State} (hp : s.pending = []) : step s = .next s := by simp [step, hp]

theorem step_resetInput {s : State} {rest : List HostEvent} (hp : s.pending = .resetInput :: rest) :
    step s = .next s.takeReset := by simp [step, hp]

theorem step_transaction {s : State} {w : TxnWord} {rest : List HostEvent} {i : Instr}
    (hp : s.pending = .transaction w :: rest) (hd : decode w = .ok i) :
    step s = onNext State.advance (exec i s) := by simp [step, hp, hd]

theorem step_reserved {s : State} {w : TxnWord} {rest : List HostEvent} {why : RefusalReason}
    (hp : s.pending = .transaction w :: rest) (hd : decode w = .error why) :
    step s = .refused (.reserved why s.index) := by simp [step, hp, hd]

/-- A step refuses a reserved word only: a decoded transaction completes (60_exceptions R78, R80). -/
theorem step_refused_cases {s : State} {r : Refusal} (h : step s = .refused r) :
    ∃ w rest why, s.pending = .transaction w :: rest ∧ decode w = .error why ∧ r = .reserved why s.index := by
  match hp : s.pending with
  | [] => simp [step_idle hp] at h
  | .resetInput :: _ => simp [step_resetInput hp] at h
  | .transaction w :: rest =>
    match hd : decode w with
    | .error why => exact ⟨w, rest, why, rfl, hd, by simpa [step_reserved hp hd] using h.symm⟩
    | .ok i =>
      obtain ⟨t, ht⟩ := exec_of_wellFormed (wellFormed_of_decode hd) s
      simp [step_transaction hp hd, ht] at h

/-! ### Runs and sequences -/

theorem run_succ_of_step {s t : State} (h : step s = .next t) (n : Nat) : run (n + 1) s = run n t := by
  simp [run, h]

theorem run_succ_of_refused {s : State} {r : Refusal} (h : step s = .refused r) (n : Nat) :
    run (n + 1) s = .refused r := by
  simp [run, h]

theorem run_succ_next {n : Nat} {s t : State} (h : run (n + 1) s = .next t) :
    ∃ u, step s = .next u ∧ run n u = .next t := by
  cases hstep : step s with
  | next u => exact ⟨u, rfl, by rwa [run_succ_of_step hstep] at h⟩
  | fault r => exact nomatch r
  | refused r => simp [run_succ_of_refused hstep] at h

/-- What every step keeps, every run that goes on keeps. -/
theorem run_keeps {P : State → Prop} (hstep : ∀ s t, P s → step s = .next t → P t) {n : Nat} {s t : State}
    (hs : P s) (h : run n s = .next t) : P t := by
  induction n generalizing s with
  | zero => cases h; exact hs
  | succ n ih =>
    obtain ⟨u, hu, hrun⟩ := run_succ_next h
    exact ih (hstep s u hs hu) hrun

theorem perform_cons_of_exec {i : Instr} {s t : State} (h : exec i s = .next t) (is : List Instr) :
    perform (i :: is) s = perform is t := by
  simp [perform, h]

theorem perform_cons_next {i : Instr} {is : List Instr} {s t : State} (h : perform (i :: is) s = .next t) :
    ∃ u, exec i s = .next u ∧ perform is u = .next t := by
  cases hexec : exec i s with
  | next u => exact ⟨u, rfl, by rwa [perform_cons_of_exec hexec] at h⟩
  | fault r => exact nomatch r
  | refused r => simp [perform, hexec] at h

theorem perform_of_wellFormed {is : List Instr} (h : ∀ i ∈ is, i.wellFormed = true) (s : State) :
    ∃ t, perform is s = .next t := by
  induction is generalizing s with
  | nil => exact ⟨s, rfl⟩
  | cons i is ih =>
    obtain ⟨u, hu⟩ := exec_of_wellFormed (h i List.mem_cons_self) s
    obtain ⟨t, ht⟩ := ih (fun j hj => h j (List.mem_cons_of_mem i hj)) u
    exact ⟨t, by rw [perform_cons_of_exec hu, ht]⟩

end Sys2Proof.StepFacts
end

section
/-! The account of a run (spec 10_state R11, R12, R16; 20_memory R31): one more event on both sides keeps a state in agreement
with an account, so every step and every run keeps it. -/

namespace Sys2Proof.RunAccount

open Sys2Proof.Machine Sys2Proof.Safety Sys2Proof.StepFacts

/-- The state is what the account says: the last four clauses of `AccountsFor`. -/
def Agrees (a : Account) (s : State) : Prop :=
  s.crc = crcValue a.crcLog ∧ s.sum = sumValue a.sumLog ∧ s.returned = a.answers ∧ s.index = a.count

theorem accountsFor_iff (s0 s : State) :
    AccountsFor s0 s ↔ ∃ done : List HostEvent, s0.pending = done ++ s.pending ∧ (∀ e ∈ done, eventLegal e = true) ∧
      Agrees (done.foldl Account.event (accountAt s0)) s := Iff.rfl

theorem agrees_accountAt (s : State) : Agrees (accountAt s) s :=
  ⟨(crcValue_start s.crc).symm, (sumValue_start s.sum).symm, rfl, rfl⟩

theorem agrees_takeReset {a : Account} {s : State} (h : Agrees a s) : Agrees (a.event .resetInput) s.takeReset := by
  obtain ⟨-, -, hreturned, hindex⟩ := h
  exact ⟨rfl, rfl, hreturned, hindex⟩

theorem event_transaction {w : TxnWord} {i : Instr} (a : Account) (hd : decode w = .ok i) :
    a.event (.transaction w) = ⟨crcRecord a.crcLog i, sumRecord a.sumLog i,
      a.answers ++ answerOf (crcValue a.crcLog) (sumValue a.sumLog) i, a.count + 1⟩ := by
  simp [Account.event, hd]

theorem agrees_advance {a : Account} {s u : State} {w : TxnWord} {i : Instr} (h : Agrees a s) (hd : decode w = .ok i)
    (hu : exec i s = .next u) : Agrees (a.event (.transaction w)) u.advance := by
  obtain ⟨hcrc, hsum, hreturned, hindex⟩ := h
  obtain ⟨-, hcount⟩ := exec_frame_host hu
  rw [event_transaction a hd]
  refine ⟨?_, ?_, ?_, ?_⟩
  · simpa using exec_crc hu hcrc
  · simpa using exec_sum hu hsum
  · simp [exec_returned hu, hcrc, hsum, hreturned]
  · simp [hcount, hindex]

/-- One more legal event performed, on the side of the state and on the side of its account. -/
theorem accountsFor_snoc {s0 s t : State} {e : HostEvent} (h : AccountsFor s0 s) (hp : s.pending = e :: t.pending)
    (hlegal : eventLegal e = true) (hagree : ∀ a, Agrees a s → Agrees (a.event e) t) : AccountsFor s0 t := by
  obtain ⟨done, hpending, hdone, hs⟩ := (accountsFor_iff s0 s).1 h
  refine (accountsFor_iff s0 t).2 ⟨done ++ [e], by simp [hpending, hp], ?_, ?_⟩
  · simpa [or_imp, forall_and, hlegal] using hdone
  · simpa using hagree _ hs

/-- Settles O21: by the three things a step can do, each of which adds one event to the account or none. -/
theorem everyStepKeepsTheAccount : Obligations.EveryStepKeepsTheAccount := by
  intro s0 s t hs hstep
  rcases step_next_cases hstep with ⟨-, rfl⟩ | ⟨rest, hp, rfl⟩ | ⟨w, rest, i, u, hp, hd, hu, rfl⟩
  · exact hs
  · exact accountsFor_snoc hs (by simp [hp]) rfl fun a ha => agrees_takeReset ha
  · obtain ⟨hpending, -⟩ := exec_frame_host hu
    exact accountsFor_snoc hs (by simp [hpending, hp]) (by simp [eventLegal, hd]) fun a ha => agrees_advance ha hd hu

theorem accountsFor_refl (s : State) : AccountsFor s s :=
  (accountsFor_iff s s).2 ⟨[], rfl, by simp, agrees_accountAt s⟩

/-- Settles O20: the account holds before the first step, and O21 is its step. -/
theorem everyRunHasItsAccount : Obligations.EveryRunHasItsAccount := fun _ s _ hrun =>
  run_keeps (everyStepKeepsTheAccount s) (accountsFor_refl s) hrun

end Sys2Proof.RunAccount
end

section
/-! The host's side of the bus (spec 10_state R16, 20_memory R31, 60_exceptions R78): the step on a legal word, the steps
without a transaction, and a whole program of legal words. -/

namespace Sys2Proof.RunProgram

open Sys2Proof.Machine Sys2Proof.Safety Sys2Proof.StepFacts

/-- The same engine with other events to come and another index. -/
def withHost (s : State) (events : List HostEvent) (k : Nat) : State := { s with pending := events, index := k }

theorem withHost_pending (s : State) (events : List HostEvent) (k : Nat) :
    (withHost s events k).pending = events := rfl

theorem withHost_self (s : State) : withHost s s.pending s.index = s := rfl

theorem advance_eq_withHost (s : State) : s.advance = withHost s s.pending.tail (s.index + 1) := rfl

theorem advance_withHost (s : State) (e : HostEvent) (rest : List HostEvent) (k : Nat) :
    (withHost s (e :: rest) k).advance = withHost s rest (k + 1) := rfl

/-- No transaction looks at the host's fields, so they can be any. -/
theorem exec_withHost {i : Instr} {s t : State} (h : exec i s = .next t) (events : List HostEvent) (k : Nat) :
    exec i (withHost s events k) = .next (withHost t events k) := by
  rcases exec_next_cases h with ⟨d, rfl, hd, rfl⟩ | ⟨d, rfl, rfl⟩ | ⟨d, rfl, rfl⟩ | ⟨d, rfl, rfl⟩ | ⟨d, rfl, rfl⟩ |
    ⟨rfl, rfl⟩ | ⟨rfl, rfl⟩ | ⟨rfl, rfl⟩ | ⟨rfl, rfl⟩
  case inl =>
    refine (if_pos hd).trans ?_
    cases crcClr d <;> cases chkClr d <;> rfl
  all_goals rfl

/-- Settles O15: the decoded transaction completes, and it leaves the host's fields for the step to move on. -/
theorem stepRunsTheDecodedTransaction : Obligations.StepRunsTheDecodedTransaction := by
  intro s w rest i hp hd
  obtain ⟨t, ht⟩ := exec_of_wellFormed (wellFormed_of_decode hd) s
  obtain ⟨hpending, hindex⟩ := exec_frame_host ht
  simp [step_transaction hp hd, ht, advance_eq_withHost, withHost, hpending, hindex, hp]

theorem run_idle {s : State} (hp : s.pending = []) (n : Nat) : run n s = .next s := by
  induction n with
  | zero => rfl
  | succ n ih => rw [run_succ_of_step (step_idle hp), ih]

theorem takeReset_of_pending {s : State} {e : HostEvent} {rest : List HostEvent} (hp : s.pending = e :: rest) :
    s.takeReset = ⟨0x0000#16, 0x00#8, rest, s.index, s.returned⟩ := by
  simp [State.takeReset, State.popEvent, State.setCrc, State.setSum, Config.crcInit, Config.sumInit, hp]

/-- Settles O17: an idle step answers its own state, by induction on the number of steps; a reset event is `takeReset`. -/
theorem hostSideWithoutATransaction : Obligations.HostSideWithoutATransaction := by
  refine ⟨fun s hp n => run_idle hp n, fun s rest hp => ?_, State.reset_pending, State.reset_index, State.reset_returned⟩
  rw [step_resetInput hp, takeReset_of_pending hp]

/-- A completed sequence and the run of its words: the run also takes the words off `pending` and counts them. -/
theorem run_of_perform {is : List Instr} {s t : State} (h : perform is s = .next t) (rest : List HostEvent) (k : Nat) :
    run is.length (withHost s ((is.map fun i => HostEvent.transaction (encode i)) ++ rest) k) =
      .next (withHost t rest (k + is.length)) := by
  induction is generalizing s k with
  | nil => cases h; rfl
  | cons i is ih =>
    obtain ⟨u, hu, hperform⟩ := perform_cons_next h
    have hstep : step (withHost s (((i :: is).map fun i => HostEvent.transaction (encode i)) ++ rest) k) =
        .next (withHost u ((is.map fun i => HostEvent.transaction (encode i)) ++ rest) (k + 1)) := by
      rw [List.map_cons, List.cons_append, step_transaction (withHost_pending _ _ _)
        (decode_encode (wellFormed_of_exec hu)), exec_withHost hu, onNext_next, advance_withHost]
    rw [List.length_cons, run_succ_of_step hstep, ih hperform, Nat.add_right_comm, Nat.add_assoc]

/-- Settles O22: a list of well-formed transactions completes, and the run of its words follows it step by step. -/
theorem runPerformsTheProgramInOrder : Obligations.RunPerformsTheProgramInOrder := by
  intro is rest s hwf hp
  obtain ⟨t, ht⟩ := perform_of_wellFormed hwf s
  have hrun := run_of_perform ht rest s.index
  rw [← hp, withHost_self] at hrun
  exact ⟨t, ht, hrun⟩

end Sys2Proof.RunProgram
end

section
/-! The independence of the two channels (spec 10_state R15, R17; 45_composite_sequences R77): what a transaction leaves in
one channel is a function of the transaction and of that channel alone. -/

namespace Sys2Proof.ChannelIndependence

open Sys2Proof.Machine Sys2Proof.Safety Sys2Proof.StepFacts

/-! ### One transaction -/

/-- What a transaction leaves in `crc` is a function of what `crc` held (10_state R15). -/
theorem exec_crc_congr {i : Instr} {s t s' t' : State} (h : exec i s = .next t) (h' : exec i s' = .next t')
    (hcrc : s'.crc = s.crc) : t'.crc = t.crc :=
  (exec_crc h' (log := ⟨s.crc, []⟩) hcrc).trans (exec_crc h rfl).symm

/-- What a transaction leaves in `sum` is a function of what `sum` held (10_state R15). -/
theorem exec_sum_congr {i : Instr} {s t s' t' : State} (h : exec i s = .next t) (h' : exec i s' = .next t')
    (hsum : s'.sum = s.sum) : t'.sum = t.sum := by
  have hlog := (sumValue_start s.sum).symm
  exact (exec_sum h' (hsum.trans hlog)).trans (exec_sum h hlog).symm

theorem crcRecord_of_not_touches {i : Instr} (h : touchesCrc i = false) (log : History CrcWord) : crcRecord log i = log := by
  cases i with
  | wrCtrl d => exact if_neg (Bool.eq_false_iff.1 h)
  | wrCrcin | wrCrchi | wrCrclo => cases h
  | _ => rfl

theorem sumRecord_of_not_touches {i : Instr} (h : touchesChk i = false) (log : History Byte) : sumRecord log i = log := by
  cases i with
  | wrCtrl d => exact if_neg (Bool.eq_false_iff.1 h)
  | wrChkin => cases h
  | _ => rfl

theorem exec_crc_of_not_touches {i : Instr} {s t : State} (hi : touchesCrc i = false) (h : exec i s = .next t) :
    t.crc = s.crc := by
  rw [exec_crc h (crcValue_start s.crc).symm, crcRecord_of_not_touches hi, crcValue_start]

theorem exec_sum_of_not_touches {i : Instr} {s t : State} (hi : touchesChk i = false) (h : exec i s = .next t) :
    t.sum = s.sum := by
  rw [exec_sum h (sumValue_start s.sum).symm, sumRecord_of_not_touches hi, sumValue_start]

/-- Only a CTRL write with both bits set touches both channels. -/
theorem touches_both {i : Instr} (hcrc : touchesCrc i = true) (hsum : touchesChk i = true) :
    ∃ d, i = .wrCtrl d ∧ d.getLsbD 0 = true ∧ d.getLsbD 1 = true := by
  cases i with
  | wrCtrl d => exact ⟨d, rfl, hcrc, hsum⟩
  | wrChkin | rdChkout | rdStat => cases hcrc
  | wrCrcin | wrCrchi | wrCrclo | rdCrchi | rdCrclo => cases hsum

/-- Settles O24: a transaction changes a channel only if it touches it, and only WR CTRL with both bits touches both. -/
theorem channelsAreIndependent : Obligations.ChannelsAreIndependent := by
  intro i s t h
  refine ⟨?_, ?_, fun hcrc hsum => ?_⟩
  · rintro ⟨d, rfl | rfl | rfl | ⟨rfl, hd⟩⟩
    · exact exec_sum_of_not_touches rfl h
    · exact exec_sum_of_not_touches rfl h
    · exact exec_sum_of_not_touches rfl h
    · exact exec_sum_of_not_touches (i := .wrCtrl d) hd h
  · rintro ⟨d, rfl | ⟨rfl, hd⟩⟩
    · exact exec_crc_of_not_touches rfl h
    · exact exec_crc_of_not_touches (i := .wrCtrl d) hd h
  · have htouchesCrc : touchesCrc i = true := by
      by_contra hno
      exact hcrc (exec_crc_of_not_touches (Bool.eq_false_of_not_eq_true hno) h)
    have htouchesChk : touchesChk i = true := by
      by_contra hno
      exact hsum (exec_sum_of_not_touches (Bool.eq_false_of_not_eq_true hno) h)
    obtain ⟨d, rfl, h0, h1⟩ := touches_both htouchesCrc htouchesChk
    refine ⟨d, rfl, h0, h1, ?_, ?_⟩
    · simpa [crcRecord, h0] using exec_crc h (crcValue_start s.crc).symm
    · simpa [sumRecord, h1] using exec_sum h (sumValue_start s.sum).symm

/-! ### Two runs side by side -/

/-- Two states whose hosts issue the same from here on. -/
def SameHost (s s' : State) : Prop := s'.pending = s.pending ∧ s'.index = s.index

/-- Two states whose hosts issue the same, and which agree on each channel on which an earlier pair of states did. -/
def StillAgree (s s' t t' : State) : Prop :=
  SameHost t t' ∧ (s'.crc = s.crc → t'.crc = t.crc) ∧ (s'.sum = s.sum → t'.sum = t.sum)

theorem StillAgree.sameHost {s s' t t' : State} (h : StillAgree s s' t t') : SameHost t t' := h.1

theorem StillAgree.trans {s s' u u' t t' : State} (h : StillAgree s s' u u') (h' : StillAgree u u' t t') :
    StillAgree s s' t t' := by
  obtain ⟨-, hcrc, hsum⟩ := h
  obtain ⟨hhost, hcrc', hsum'⟩ := h'
  exact ⟨hhost, hcrc' ∘ hcrc, hsum' ∘ hsum⟩

theorem step_stillAgree {s s' t : State} (hhost : SameHost s s') (h : step s = .next t) :
    ∃ t', step s' = .next t' ∧ StillAgree s s' t t' := by
  obtain ⟨hpending, hindex⟩ := hhost
  rcases step_next_cases h with ⟨hp, rfl⟩ | ⟨rest, hp, rfl⟩ | ⟨w, rest, i, u, hp, hd, hu, rfl⟩
  · exact ⟨s', step_idle (hpending.trans hp), ⟨hpending, hindex⟩, id, id⟩
  · exact ⟨s'.takeReset, step_resetInput (hpending.trans hp), ⟨by simp [hpending], hindex⟩, fun _ => rfl, fun _ => rfl⟩
  · obtain ⟨u', hu'⟩ := exec_of_wellFormed (wellFormed_of_decode hd) s'
    obtain ⟨hup, hui⟩ := exec_frame_host hu
    obtain ⟨hup', hui'⟩ := exec_frame_host hu'
    have hstep : step s' = .next u'.advance := by rw [step_transaction (hpending.trans hp) hd, hu', onNext_next]
    refine ⟨u'.advance, hstep, ⟨?_, ?_⟩, fun hcrc => ?_, fun hsum => ?_⟩
    · simp [hup, hup', hpending]
    · simp [hui, hui', hindex]
    · simpa using exec_crc_congr hu hu' hcrc
    · simpa using exec_sum_congr hu hu' hsum

theorem step_refused_congr {s s' : State} {r : Refusal} (hhost : SameHost s s') (h : step s = .refused r) :
    step s' = .refused r := by
  obtain ⟨hpending, hindex⟩ := hhost
  obtain ⟨w, rest, why, hp, hd, rfl⟩ := step_refused_cases h
  rw [step_reserved (hpending.trans hp) hd, hindex]

theorem run_stillAgree {n : Nat} {s s' t : State} (hhost : SameHost s s') (h : run n s = .next t) :
    ∃ t', run n s' = .next t' ∧ StillAgree s s' t t' := by
  induction n generalizing s s' with
  | zero => cases h; exact ⟨s', rfl, hhost, id, id⟩
  | succ n ih =>
    obtain ⟨u, hu, hrun⟩ := run_succ_next h
    obtain ⟨u', hu', hagree⟩ := step_stillAgree hhost hu
    obtain ⟨t', ht', hagree'⟩ := ih hagree.sameHost hrun
    exact ⟨t', by rw [run_succ_of_step hu', ht'], hagree.trans hagree'⟩

theorem run_refused_congr {n : Nat} {s s' : State} {r : Refusal} (hhost : SameHost s s') (h : run n s = .refused r) :
    run n s' = .refused r := by
  induction n generalizing s s' with
  | zero => cases h
  | succ n ih =>
    cases hstep : step s with
    | next u =>
      obtain ⟨u', hu', hagree⟩ := step_stillAgree hhost hstep
      rw [run_succ_of_step hstep] at h
      rw [run_succ_of_step hu', ih hagree.sameHost h]
    | fault f => exact nomatch f
    | refused r' =>
      rw [run_succ_of_refused hstep] at h
      rw [run_succ_of_refused (step_refused_congr hhost hstep), h]

/-- Settles O25: two runs side by side, by induction on the number of steps. -/
theorem channelsLeakNothingIntoEachOther : Obligations.ChannelsLeakNothingIntoEachOther := by
  refine ⟨fun n s s' t hcrc hpending hindex h => ?_, fun n s s' t hsum hpending hindex h => ?_,
    fun n s s' r hpending hindex h => run_refused_congr ⟨hpending, hindex⟩ h⟩
  · obtain ⟨t', ht', ⟨hp, hi⟩, hkeep, -⟩ := run_stillAgree ⟨hpending, hindex⟩ h
    exact ⟨t', ht', hkeep hcrc, hp, hi⟩
  · obtain ⟨t', ht', ⟨hp, hi⟩, -, hkeep⟩ := run_stillAgree ⟨hpending, hindex⟩ h
    exact ⟨t', ht', hkeep hsum, hp, hi⟩

/-! ### Leaving transactions out -/

/-- If what a transaction leaves in a part of the state depends on that part alone (`hcongr`), and the transactions left out
do not change it (`hskip`), then a sequence leaves the same in it without them. -/
theorem perform_filter {α : Type} {part : State → α} {keep : Instr → Bool}
    (hcongr : ∀ {i s t s' t'}, exec i s = .next t → exec i s' = .next t' → part s' = part s → part t' = part t)
    (hskip : ∀ {i s t}, keep i = false → exec i s = .next t → part t = part s)
    {is : List Instr} {s s' t : State} (h : perform is s = .next t) (hpart : part s' = part s) :
    ∃ u, perform (is.filter keep) s' = .next u ∧ part t = part u := by
  induction is generalizing s s' with
  | nil => cases h; exact ⟨s', rfl, hpart.symm⟩
  | cons i is ih =>
    obtain ⟨v, hv, hrest⟩ := perform_cons_next h
    cases hi : keep i with
    | true =>
      obtain ⟨v', hv'⟩ := exec_of_wellFormed (wellFormed_of_exec hv) s'
      rw [List.filter_cons_of_pos hi, perform_cons_of_exec hv']
      exact ih hrest (hcongr hv hv' hpart)
    | false =>
      rw [List.filter_cons_of_neg (by simp [hi])]
      exact ih hrest (hpart.trans (hskip hi hv).symm)

/-- Settles O26: `perform_filter` for `crc` and for `sum`. -/
theorem interleavingChangesNeitherChannel : Obligations.InterleavingChangesNeitherChannel := by
  intro is s hwf
  obtain ⟨t, ht⟩ := perform_of_wellFormed hwf s
  obtain ⟨u, hu, hcrc⟩ := perform_filter (part := State.crc) exec_crc_congr exec_crc_of_not_touches ht rfl
  obtain ⟨v, hv, hsum⟩ := perform_filter (part := State.sum) exec_sum_congr exec_sum_of_not_touches ht rfl
  exact ⟨t, u, v, ht, hu, hv, hcrc, hsum⟩

end Sys2Proof.ChannelIndependence
end

section
/-! The CRC register taken bit by bit (spec 20_memory R26, 40_crc R45): XORing a word into the register before `n` shifts is
feeding the word's top `n` bits one at a time, the top bit first. -/

namespace Sys2Proof.CrcBitSerial

open Sys2Proof.Machine Sys2Proof.Safety

/-- The top bit of what is XORed in joins the bit that leaves the register; the other bits wait one place further up. -/
theorem crcShift_xor (c x : CrcWord) : crcShift (c ^^^ x) = crcBit c (x.getMsbD 0) ^^^ x <<< 1 := by
  have hleave : (c ^^^ x).getLsbD 15 = (c.getLsbD 15 ^^ x.getMsbD 0) := BitVec.getLsbD_xor
  rw [crcShift, crcBit, hleave, BitVec.shiftLeft_xor_distrib]
  split
  · ac_rfl
  · rfl

theorem crcShifts_xor_eq_foldl (n : Nat) (c x : CrcWord) :
    crcShifts n (c ^^^ x) = ((List.range n).map x.getMsbD).foldl crcBit c ^^^ x <<< n := by
  induction n generalizing c x with
  | zero => simp [crcShifts]
  | succ n ih =>
    have hbits : (List.range (n + 1)).map x.getMsbD = x.getMsbD 0 :: (List.range n).map (x <<< 1).getMsbD := by
      simp [List.range_succ_eq_map, Function.comp_def]
    rw [crcShifts, crcShift_xor, ih, hbits, List.foldl_cons, ← BitVec.shiftLeft_add, Nat.add_comm 1 n]

/-- WR CRCIN's operand holds the byte in its top eight bits (30_encoding R37). -/
theorem map_getMsbD_crcOperand (b : Byte) : (List.range 8).map (crcOperand b).getMsbD = bitsMsbFirst b := by
  simp [List.range_succ, crcOperand, bitsMsbFirst, BitVec.getMsbD_eq_getLsbD]

/-- After eight shifts nothing of the operand waits any more. -/
theorem crcOperand_shiftLeft_eight (b : Byte) : crcOperand b <<< 8 = 0#16 := by
  rw [crcOperand, ← BitVec.shiftLeft_add, BitVec.shiftLeft_eq_zero (by omega)]

theorem crcStep_eq_foldl_crcBit (c : CrcWord) (b : Byte) : crcStep c b = (bitsMsbFirst b).foldl crcBit c := by
  rw [crcStep, crcShifts_xor_eq_foldl, map_getMsbD_crcOperand, crcOperand_shiftLeft_eight, BitVec.xor_zero]

theorem crcFeed_eq_foldl_crcBit (c : CrcWord) (m : List Byte) :
    crcFeed c m = (m.flatMap bitsMsbFirst).foldl crcBit c := by
  induction m generalizing c with
  | nil => rfl
  | cons b m ih =>
    rw [crcFeed_cons, ih, crcStep_eq_foldl_crcBit, List.flatMap_cons, List.foldl_append]

/-- Settles O30: eight shifts of the XORed register feed the operand's top eight bits, which are the byte's, and a message by
induction. -/
theorem crcTakesBitSevenFirst : Obligations.CrcTakesBitSevenFirst :=
  ⟨crcStep_eq_foldl_crcBit, crcFeed_eq_foldl_crcBit⟩

end Sys2Proof.CrcBitSerial
end

section
/-! What a transaction does when it is repeated (spec 20_memory R30): a read answers from the two channels, which it leaves as
they are; a clear and a seed set what they set whatever stood there; a feed starts from what the feed before it left. -/

namespace Sys2Proof.Idempotency

open Sys2Proof.Machine Sys2Proof.Safety Sys2Proof.StepFacts

/-! ### Reads -/

/-- A read's answer does not depend on what was returned before it. -/
theorem exec_of_isRead {i : Instr} (h : isRead i = true) :
    ∃ answer : State → Byte, (∀ s, exec i s = .next (s.respond (answer s))) ∧
      ∀ s b, answer (s.respond b) = answer s := by
  cases i with
  | rdCrchi => exact ⟨fun s => hiByte s.crc, fun _ => rfl, fun _ _ => rfl⟩
  | rdCrclo => exact ⟨fun s => loByte s.crc, fun _ => rfl, fun _ _ => rfl⟩
  | rdChkout => exact ⟨fun s => twos8 s.sum, fun _ => rfl, fun _ _ => rfl⟩
  | rdStat => exact ⟨statByte, fun _ => rfl, fun _ _ => rfl⟩
  | wrCtrl | wrCrcin | wrCrchi | wrCrclo | wrChkin => cases h

theorem perform_read_twice {i : Instr} (h : isRead i = true) (s : State) :
    ∃ b, exec i s = .next (s.respond b) ∧ perform [i, i] s = .next ((s.respond b).respond b) := by
  obtain ⟨answer, hexec, hsame⟩ := exec_of_isRead h
  refine ⟨answer s, hexec s, ?_⟩
  rw [perform_cons_of_exec (hexec s), perform_cons_of_exec (hexec _), hsame]
  rfl

/-! ### Clears and seeds -/

theorem clear_clear (s : State) (crcFlag sumFlag : Bool) :
    (((s.clearCrcIf crcFlag).clearSumIf sumFlag).clearCrcIf crcFlag).clearSumIf sumFlag =
      (s.clearCrcIf crcFlag).clearSumIf sumFlag := by
  cases crcFlag <;> cases sumFlag <;> rfl

theorem exec_wrCtrl_of_clear {d : Byte} (h : ctrlReservedClear d = true) (s : State) :
    exec (.wrCtrl d) s = .next ((s.clearCrcIf (crcClr d)).clearSumIf (chkClr d)) := if_pos h

theorem exec_wrCrchi (d : Byte) (s : State) :
    exec (.wrCrchi d) s = .next (s.setCrc (joinBytes d (loByte s.crc))) := rfl

theorem exec_wrCrclo (d : Byte) (s : State) :
    exec (.wrCrclo d) s = .next (s.setCrc (joinBytes (hiByte s.crc) d)) := rfl

theorem setCrc_setCrc (s : State) (v w : CrcWord) : (s.setCrc v).setCrc w = s.setCrc w := rfl

theorem wrCtrl_idempotent {d : Byte} {s t : State} (h : exec (.wrCtrl d) s = .next t) : exec (.wrCtrl d) t = .next t := by
  have hd : ctrlReservedClear d = true := wellFormed_of_exec h
  rw [exec_wrCtrl_of_clear hd] at h
  cases h
  rw [exec_wrCtrl_of_clear hd, clear_clear]

theorem wrCrchi_idempotent {d : Byte} {s t : State} (h : exec (.wrCrchi d) s = .next t) :
    exec (.wrCrchi d) t = .next t := by
  cases h
  rw [exec_wrCrchi, State.setCrc_crc, loByte_joinBytes, setCrc_setCrc]

theorem wrCrclo_idempotent {d : Byte} {s t : State} (h : exec (.wrCrclo d) s = .next t) :
    exec (.wrCrclo d) t = .next t := by
  cases h
  rw [exec_wrCrclo, State.setCrc_crc, hiByte_joinBytes, setCrc_setCrc]

/-! ### Feeds -/

theorem exec_wrCrcin (d : Byte) (s : State) : exec (.wrCrcin d) s = .next (s.setCrc (crcStep s.crc d)) := rfl

/-! ### The statement -/

/-- Settles O27: each read, clear and seed by its lemma above, the double feeds as messages of two bytes, and the byte 0x01 fed
twice: from 0x0100 it takes `crc` to 0x0000 and then to 0x1021, and from 0x00 it takes `sum` to 0x01 and then to 0x02. -/
theorem onlyTheFeedingWritesAreNotIdempotent : Obligations.OnlyTheFeedingWritesAreNotIdempotent := by
  refine ⟨fun i hi s => ?_, fun d i hi s t h => ?_, fun d s => perform_crcFeedSeq [d, d] s,
    fun d s => perform_chkFeedSeq [d, d] s, ?_, ?_⟩
  · have hread : ∀ j ∈ [Instr.rdCrchi, .rdCrclo, .rdChkout, .rdStat], isRead j = true := by decide
    obtain ⟨b, honce, htwice⟩ := perform_read_twice (hread i hi) s
    exact ⟨b, honce, by rw [htwice]; simp [State.respond]⟩
  · simp only [List.mem_cons, List.not_mem_nil, or_false] at hi
    obtain rfl | rfl | rfl := hi
    · exact wrCtrl_idempotent h
    · exact wrCrchi_idempotent h
    · exact wrCrclo_idempotent h
  · refine ⟨0x01#8, State.reset.setCrc 0x0100#16, _, _, exec_wrCrcin .., exec_wrCrcin .., ?_⟩
    have hfirst : crcStep 0x0100#16 0x01#8 = 0x0000#16 := by decide
    have hsecond : crcStep 0x0000#16 0x01#8 = 0x1021#16 := by decide
    simp [hfirst, hsecond]
  · exact ⟨0x01#8, State.reset, _, _, rfl, rfl, by decide⟩

end Sys2Proof.Idempotency
end

section
/-! The opcode map as facts about the fields of a word (spec 30_encoding R36 to R39): bits 11:8, which hold `W` and `A`, choose
the row, and the data byte below them is what the row's transaction carries, or for a read what it ignores. -/

namespace Sys2Proof.Encoding

open Sys2Proof.StepFacts

/-! ### The fields of a word -/

theorem append_inj_iff {m k : Nat} (a c : BitVec m) (b d : BitVec k) : a ++ b = c ++ d ↔ a = c ∧ b = d := by
  refine ⟨fun h => ⟨?_, ?_⟩, fun ⟨ha, hb⟩ => ha ▸ hb ▸ rfl⟩
  · simpa only [BitVec.extractLsb'_append_eq_left] using congrArg (BitVec.extractLsb' k m) h
  · simpa only [BitVec.extractLsb'_append_eq_right] using congrArg (BitVec.extractLsb' 0 k) h

theorem and_allOnes_append_zero {m k : Nat} (w : BitVec (m + k)) :
    w &&& (BitVec.allOnes m ++ 0#k) = w.extractLsb' k m ++ 0#k := by
  conv_lhs => rw [← BitVec.extractLsb'_append_extractLsb' (x := w)]
  rw [BitVec.and_append, BitVec.and_allOnes, BitVec.and_zero]

/-- What a mask of high bits compares: the high bits alone. -/
theorem and_eq_append_zero_iff {m k : Nat} (w : BitVec (m + k)) (v : BitVec m) :
    w &&& (BitVec.allOnes m ++ 0#k) = v ++ 0#k ↔ w.extractLsb' k m = v := by
  rw [and_allOnes_append_zero, append_inj_iff, and_iff_left rfl]

theorem top_append_fieldD (w : TxnWord) : w.extractLsb' 8 4 ++ fieldD w = w :=
  BitVec.extractLsb'_append_extractLsb' (w := 4) (len := 8)

theorem and_top (w : TxnWord) : w &&& 0xF00#12 = w.extractLsb' 8 4 ++ 0#8 := and_allOnes_append_zero (m := 4) (k := 8) w

theorem and_top_eq_iff (w : TxnWord) (n : BitVec 4) : w &&& 0xF00#12 = n ++ 0#8 ↔ w.extractLsb' 8 4 = n :=
  and_eq_append_zero_iff (m := 4) (k := 8) w n

theorem fieldW_eq_getLsbD_top (w : TxnWord) : fieldW w = (w.extractLsb' 8 4).getLsbD 3 := by
  simp [fieldW]

theorem top_eq_top_of_matches {r : OpcodeRow} {w : TxnWord} (hr : r ∈ opcodeRows) (hm : r.matches w = true) :
    r.value.extractLsb' 8 4 = w.extractLsb' 8 4 := by
  rw [← and_top_eq_iff, top_eq_of_matches hr hm, and_top]

/-! ### Encoding what was decoded -/

/-- The word of a row's transaction: the row's bits 11:8, over the data byte for a write and over 0 for a read (30_encoding
R37, R38). -/
theorem encode_build : ∀ r ∈ opcodeRows, ∀ d : Byte,
    encode (r.build d) = r.value.extractLsb' 8 4 ++ (if fieldW r.value then d else 0x00#8) := by
  intro r hr d
  simp only [opcodeRows, List.mem_cons, List.not_mem_nil, or_false] at hr
  obtain rfl | rfl | rfl | rfl | rfl | rfl | rfl | rfl | rfl := hr <;> rfl

theorem canonicalWord_eq_append (w : TxnWord) :
    canonicalWord w = w.extractLsb' 8 4 ++ (if fieldW w then fieldD w else 0x00#8) := by
  unfold canonicalWord
  cases fieldW w with
  | false => exact and_top w
  | true => exact (top_append_fieldD w).symm

theorem encode_of_decode {w : TxnWord} {i : Instr} (h : decode w = .ok i) : encode i = canonicalWord w := by
  obtain ⟨r, hr, hm, rfl⟩ := decode_eq_ok_iff.1 h
  have htop := top_eq_top_of_matches hr hm
  have hwrite : fieldW r.value = fieldW w := by rw [fieldW_eq_getLsbD_top, htop, ← fieldW_eq_getLsbD_top]
  rw [encode_build r hr, htop, hwrite, canonicalWord_eq_append]

/-- Settles O11: each transaction's word lies in its row, and the row that a word lies in has the word's bits 11:8. -/
theorem decodeAndEncodeAgree : Obligations.DecodeAndEncodeAgree :=
  ⟨fun _ h => decode_encode h, fun _ _ h => ⟨wellFormed_of_decode h, encode_of_decode h⟩⟩

/-! ### The rows -/

/-- The rows differ in bits 11:8, so a word matches no row but the one with its own bits there. -/
theorem countP_matches_le_one (w : TxnWord) : opcodeRows.countP (fun r => r.matches w) ≤ 1 :=
  calc opcodeRows.countP (fun r => r.matches w)
      ≤ opcodeRows.countP ((· == w &&& 0xF00#12) ∘ fun r => r.value &&& 0xF00#12) :=
        List.countP_mono_left fun r hr hm => by simpa using top_eq_of_matches hr hm
    _ = (opcodeRows.map fun r => r.value &&& 0xF00#12).count (w &&& 0xF00#12) := by rw [List.count, List.countP_map]
    _ ≤ 1 := List.nodup_iff_count_le_one.1 nodup_opcodeRows_top _

/-- Settles O10: the row that `decode` finds, written out for each of the nine. -/
theorem opcodeMapIsTheNineRows : Obligations.OpcodeMapIsTheNineRows := by
  refine ⟨fun w i => ?_, rfl, countP_matches_le_one⟩
  rw [decode_eq_ok_iff]
  simp [opcodeRows, OpcodeRow.matches, fieldD, @eq_comm _ i]

/-! ### The reserved words -/

theorem and_ctrlMask_eq_iff (w : TxnWord) :
    w &&& 0xFFC#12 = 0x800#12 ↔ w.extractLsb' 8 4 = 0x8#4 ∧ w.extractLsb' 2 6 = 0#6 := by
  have hbits : w.extractLsb' 8 4 ++ w.extractLsb' 2 6 = w.extractLsb' 2 10 :=
    BitVec.extractLsb'_append_extractLsb'_eq_extractLsb' rfl
  rw [← append_inj_iff, hbits]
  exact and_eq_append_zero_iff (m := 10) (k := 2) w (0x8#4 ++ 0#6)

/-- The rows below WR CTRL compare bits 11:8 and nothing else. -/
theorem maskTop_of_mem_tail : ∀ r ∈ opcodeRows.tail, r.mask = 0xF00#12 ∧ r.value = r.value.extractLsb' 8 4 ++ 0#8 := by
  decide

theorem matches_iff_of_mem_tail {r : OpcodeRow} (hr : r ∈ opcodeRows.tail) (w : TxnWord) :
    r.matches w = true ↔ r.value.extractLsb' 8 4 = w.extractLsb' 8 4 := by
  obtain ⟨hmask, hvalue⟩ := maskTop_of_mem_tail r hr
  rw [OpcodeRow.matches, beq_iff_eq, hmask, hvalue, and_top_eq_iff, ← hvalue, eq_comm]

theorem exists_matches_tail_iff (w : TxnWord) : (∃ r ∈ opcodeRows.tail, r.matches w = true) ↔
    w.extractLsb' 8 4 ∈ [0x9#4, 0xA#4, 0xB#4, 0xC#4, 0x2#4, 0x3#4, 0x5#4, 0x6#4] :=
  calc (∃ r ∈ opcodeRows.tail, r.matches w = true)
    _ ↔ w.extractLsb' 8 4 ∈ opcodeRows.tail.map (fun r => r.value.extractLsb' 8 4) := by
      rw [List.mem_map]
      exact exists_congr fun r => and_congr_right fun hr => matches_iff_of_mem_tail hr w
    _ ↔ _ := Iff.rfl

/-- The legal words: a row's bits 11:8, and for WR CTRL the reserved bits at 0 (30_encoding R38). -/
theorem exists_decode_ok_iff (w : TxnWord) : (∃ i, decode w = .ok i) ↔
    (w.extractLsb' 8 4 = 0x8#4 ∧ w.extractLsb' 2 6 = 0#6) ∨
      w.extractLsb' 8 4 ∈ [0x9#4, 0xA#4, 0xB#4, 0xC#4, 0x2#4, 0x3#4, 0x5#4, 0x6#4] := by
  rw [← and_ctrlMask_eq_iff, ← exists_matches_tail_iff]
  calc (∃ i, decode w = .ok i)
    _ ↔ ∃ r ∈ opcodeRows, r.matches w = true := by simp [decode_eq_ok_iff]
    _ ↔ _ := by simp only [opcodeRows, List.exists_mem_cons_iff, List.tail_cons, OpcodeRow.matches, beq_iff_eq]

theorem exists_decode_error_iff (w : TxnWord) : (∃ why, decode w = .error why) ↔ ¬ ∃ i, decode w = .ok i := by
  cases decode w <;> simp

/-- The three classes of 30_encoding R39. -/
theorem exists_decode_error_iff_class (w : TxnWord) : (∃ why, decode w = .error why) ↔
    (w.extractLsb' 8 4 ∈ [0x0#4, 0x1#4, 0x4#4, 0x7#4] ∨ w.extractLsb' 8 4 ∈ [0xD#4, 0xE#4, 0xF#4] ∨
      (w.extractLsb' 8 4 = 0x8#4 ∧ w.extractLsb' 2 6 ≠ 0#6)) := by
  rw [exists_decode_error_iff, exists_decode_ok_iff, ne_eq]
  generalize w.extractLsb' 8 4 = n
  by_cases hbits : w.extractLsb' 2 6 = 0#6 <;> simp only [hbits] <;> revert n <;> decide

/-! ### How many words are legal -/

/-- How many of the 256 words with bits 11:8 equal to `n` are legal (30_encoding R38). -/
def legalBelow (n : Nat) : Nat := if n ∈ [2, 3, 5, 6, 9, 10, 11, 12] then 256 else if n = 8 then 4 else 0

theorem isSome_decodeTableWord {n : Nat} (hn : n < 2 ^ 12) :
    (decodeTableWord 16 n).isSome = true ↔ ∃ i, decode (BitVec.ofNat 12 n) = .ok i := by
  have hmod : n % 2 ^ 16 = n := Nat.mod_eq_of_lt (by omega)
  rw [decodeTableWord, tableWord, hmod, if_pos hn]
  cases decode (BitVec.ofNat 12 n) <;> simp

theorem isSome_decodeTableWord_iff {n d : Nat} (hn : n < 16) (hd : d < 256) :
    (decodeTableWord 16 (256 * n + d)).isSome = true ↔ d < legalBelow n := by
  have htop : (BitVec.ofNat 12 (256 * n + d)).extractLsb' 8 4 = BitVec.ofNat 4 n := by
    apply BitVec.eq_of_toNat_eq
    simp only [BitVec.extractLsb'_toNat, BitVec.toNat_ofNat, Nat.shiftRight_eq_div_pow]
    omega
  have hbits : (BitVec.ofNat 12 (256 * n + d)).extractLsb' 2 6 = 0#6 ↔ d < 4 := by
    rw [← BitVec.toNat_inj]
    simp only [BitVec.extractLsb'_toNat, BitVec.toNat_ofNat, Nat.shiftRight_eq_div_pow]
    omega
  have hnumber : ∀ n < 16, (BitVec.ofNat 4 n = 0x8#4 ↔ n = 8) ∧
      (BitVec.ofNat 4 n ∈ [0x9#4, 0xA#4, 0xB#4, 0xC#4, 0x2#4, 0x3#4, 0x5#4, 0x6#4] ↔ n ∈ [2, 3, 5, 6, 9, 10, 11, 12]) := by
    decide
  obtain ⟨hctrl, hother⟩ := hnumber n hn
  rw [isSome_decodeTableWord (by omega), exists_decode_ok_iff, htop, hbits, hctrl, hother, legalBelow]
  by_cases hn8 : n = 8
  · simp [hn8]
  · split_ifs with hmem <;> simp [hn8, hmem, hd]

theorem legalBelow_le (n : Nat) : legalBelow n ≤ 256 := by
  unfold legalBelow
  split_ifs <;> decide

theorem countP_isSome_block {n : Nat} (hn : n < 16) :
    (List.range 256).countP (fun d => (decodeTableWord 16 (256 * n + d)).isSome) = legalBelow n :=
  calc (List.range 256).countP (fun d => (decodeTableWord 16 (256 * n + d)).isSome)
    _ = (List.range 256).countP (fun d => d < legalBelow n) :=
      List.countP_congr fun d hd => by
        rw [isSome_decodeTableWord_iff hn (List.mem_range.1 hd), decide_eq_true_iff]
    _ = legalBelow n := by
      rw [List.countP_eq_length_filter, ← List.Ico.zero_bot, List.Ico.filter_lt, List.Ico.length,
        min_eq_right (legalBelow_le n), Nat.sub_zero]

/-- The legal words, counted in blocks of 256 that agree in bits 11:8. -/
theorem countP_isSome_blocks {n : Nat} (hn : n ≤ 16) :
    (List.range (256 * n)).countP (fun w => (decodeTableWord 16 w).isSome) = ((List.range n).map legalBelow).sum := by
  induction n with
  | zero => rfl
  | succ n ih =>
    rw [Nat.mul_succ, List.range_add, List.countP_append, List.countP_map, ih (by omega), List.sum_range_succ]
    exact congrArg _ (countP_isSome_block hn)

theorem countP_isNone {α β : Type} (f : α → Option β) (l : List α) :
    l.countP (fun a => (f a).isNone) = l.length - l.countP (fun a => (f a).isSome) := by
  have hsplit := List.length_eq_countP_add_countP (fun a => (f a).isSome) (l := l)
  have hnone : l.countP (fun a => (f a).isNone) = l.countP (fun a => decide ¬ (f a).isSome = true) :=
    List.countP_congr fun a _ => by simp
  omega

/-- Settles O12: the reserved words are those that no row has, and of the 4096 the legal ones are eight blocks of 256 and the
four of WR CTRL. -/
theorem reservedWordsAreThreeClasses : Obligations.ReservedWordsAreThreeClasses := by
  have hlegal : (List.range 4096).countP (fun n => (decodeTableWord 16 n).isSome) = 2052 := by
    have hsum : ((List.range 16).map legalBelow).sum = 2052 := by decide
    rw [show 4096 = 256 * 16 from rfl, countP_isSome_blocks le_rfl, hsum]
  refine ⟨exists_decode_error_iff_class, ?_, hlegal⟩
  rw [countP_isNone, List.length_range, hlegal]

/-- Settles O14, by evaluation of the decoder on the twelve words. -/
theorem wordsOfTheSpecDecode : Obligations.WordsOfTheSpecDecode :=
  ⟨rfl, rfl, rfl, rfl, rfl, rfl, rfl, rfl, rfl, rfl, rfl, rfl⟩

end Sys2Proof.Encoding
end

section
/-! What the assembly form gives (spec 30_encoding R42 to R44): the word of a bus access, the words of a line that is taken, and
the reason of one that is refused. -/

namespace Sys2Proof.Assembly

open Sys2Proof.Machine

/-! ### Numbers and words -/

theorem asmByte_of_lt {n : Nat} (h : n < 256) (line : Nat) : asmByte line n = .ok (BitVec.ofNat 8 n) := if_pos h

theorem asmByte_of_le {n : Nat} (h : 256 ≤ n) (line : Nat) : asmByte line n = .error (.immediateOutOfRange line n) :=
  if_neg (by omega)

@[simp] theorem asmByte_toNat (line : Nat) (b : Byte) : asmByte line b.toNat = .ok b := by
  rw [asmByte_of_lt b.isLt, BitVec.ofNat_toNat, BitVec.setWidth_eq]

@[simp] theorem asmBytes_map_toNat (line : Nat) (bs : List Byte) : asmBytes line (bs.map BitVec.toNat) = .ok bs := by
  induction bs with
  | nil => rfl
  | cons b bs ih => simp [asmBytes, ih]

/-- A word as the number its fields make (30_encoding R36). -/
theorem assembleWord_eq_ofNat (b : BitVec 1) (a : Offset) (d : Byte) :
    assembleWord b a d = BitVec.ofNat 12 (2048 * b.toNat + 256 * a.toNat + d.toNat) := by
  have hb := b.isLt
  have ha := a.isLt
  have hd := d.isLt
  apply BitVec.eq_of_toNat_eq
  simp only [assembleWord, BitVec.toNat_append, BitVec.toNat_ofNat]
  rw [← Nat.shiftLeft_add_eq_or_of_lt ha, ← Nat.shiftLeft_add_eq_or_of_lt hd, Nat.shiftLeft_eq, Nat.shiftLeft_eq]
  omega

theorem busWriteWord_eq_ofNat (r : Register) {n : Nat} (h : n < 256) :
    busWriteWord r (BitVec.ofNat 8 n) = BitVec.ofNat 12 (2048 + 256 * r.offset.toNat + n) := by
  rw [busWriteWord, assembleWord_eq_ofNat, BitVec.toNat_ofNat (w := 8), Nat.mod_eq_of_lt h]
  rfl

theorem busReadWord_eq_ofNat (r : Register) : busReadWord r = BitVec.ofNat 12 (256 * r.offset.toNat) := by
  rw [busReadWord, assembleWord_eq_ofNat]
  simp

/-! ### Lines -/

theorem words_wr_of_not_writable {r : Register} (h : r.writable = false) (line imm : Nat) :
    AsmLine.words line (.wr r imm) = .error (.wrongDirection line r) := by
  simp [AsmLine.words, h]

theorem words_wr_of_writable {r : Register} (h : r.writable = true) (line imm : Nat) :
    AsmLine.words line (.wr r imm) = (asmByte line imm).map fun b => [busWriteWord r b] := by
  simp [AsmLine.words, h]

theorem words_rd_of_not_readable {r : Register} (h : r.readable = false) (line : Nat) :
    AsmLine.words line (.rd r) = .error (.wrongDirection line r) := by
  simp [AsmLine.words, h]

theorem words_rd_of_readable {r : Register} (h : r.readable = true) (line : Nat) :
    AsmLine.words line (.rd r) = .ok [BitVec.ofNat 12 (256 * r.offset.toNat)] := by
  simp [AsmLine.words, h, busReadWord_eq_ofNat]

theorem words_wr_of_lt {r : Register} (h : r.writable = true) {imm : Nat} (himm : imm < 256) (line : Nat) :
    AsmLine.words line (.wr r imm) = .ok [BitVec.ofNat 12 (2048 + 256 * r.offset.toNat + imm)] := by
  rw [words_wr_of_writable h, asmByte_of_lt himm, Except.map, busWriteWord_eq_ofNat r himm]

theorem words_wr_of_le {r : Register} (h : r.writable = true) {imm : Nat} (himm : 256 ≤ imm) (line : Nat) :
    AsmLine.words line (.wr r imm) = .error (.immediateOutOfRange line imm) := by
  rw [words_wr_of_writable h, asmByte_of_le himm, Except.map]

/-- Settles O55: the access columns of the register map decide a line's direction first,
and what is left of a write turns on its immediate. -/
theorem transcriberRefusesByNameAndLine : Obligations.TranscriberRefusesByNameAndLine := by
  have hreadOnly : ∀ r ∈ [Register.chkout, .stat], r.writable = false := by decide
  have hwriteOnly : ∀ r ∈ [Register.ctrl, .crcin, .chkin], r.readable = false := by decide
  have hwritable : ∀ r ∈ [Register.ctrl, .crcin, .crchi, .crclo, .chkin], r.writable = true := by decide
  have hreadable : ∀ r ∈ [Register.crchi, .crclo, .chkout, .stat], r.readable = true := by decide
  exact ⟨fun line imm r hr => words_wr_of_not_writable (hreadOnly r hr) line imm,
    fun line r hr => words_rd_of_not_readable (hwriteOnly r hr) line,
    fun line _ r hr himm => words_wr_of_le (hwritable r hr) himm line,
    fun line _ r hr himm => words_wr_of_lt (hwritable r hr) himm line,
    fun line r hr => words_rd_of_readable (hreadable r hr) line⟩

/-! ### Pseudo-instructions -/

theorem words_crcseed (line : Nat) (v : CrcWord) :
    AsmLine.words line (.crcseed v.toNat) = .ok ((crcSeed v).map encode) := by
  have hv := v.isLt
  simp only [AsmLine.words]
  rw [if_pos hv, BitVec.ofNat_toNat, BitVec.setWidth_eq]

theorem words_crcfeed (line : Nat) (bs : List Byte) :
    AsmLine.words line (.crcfeed (bs.map BitVec.toNat)) = .ok (bs.map fun d => 0x9#4 ++ d) := by
  simp only [AsmLine.words, asmBytes_map_toNat, Except.map, crcFeedSeq, List.map_map]
  rfl

theorem words_chkfeed (line : Nat) (bs : List Byte) :
    AsmLine.words line (.chkfeed (bs.map BitVec.toNat)) = .ok (bs.map fun d => 0xC#4 ++ d) := by
  simp only [AsmLine.words, asmBytes_map_toNat, Except.map, chkFeedSeq, List.map_map]
  rfl

/-- Settles O54: the fixed expansions are their words by evaluation, the ones with operands by the lemmas above. -/
theorem pseudoInstructionsExpand : Obligations.PseudoInstructionsExpand := fun line v b bs =>
  ⟨rfl, rfl, rfl, words_crcseed line v, words_crcfeed line (b :: bs), words_chkfeed line (b :: bs), rfl⟩

/-! ### Text -/

theorem assembleFrom_cons_of_ok {line : Nat} {text : List Char} {ws : List TxnWord} (h : assembleLine line text = .ok ws)
    (texts : List (List Char)) :
    assembleFrom line (text :: texts) = (assembleFrom (line + 1) texts).map (ws ++ ·) := by
  simp only [assembleFrom, h]
  cases assembleFrom (line + 1) texts <;> rfl

theorem assembleFrom_cons_of_error {line : Nat} {text : List Char} {e : AsmError} (h : assembleLine line text = .error e)
    (texts : List (List Char)) : assembleFrom line (text :: texts) = .error e := by
  simp only [assembleFrom, h]

theorem assembleLine_of_lineOf {text head : List Char} {rest : List AsmToken} {l : AsmLine}
    (htokens : tokensFrom text [] = .word head :: rest) (hline : lineOf head rest = some l) (line : Nat) :
    assembleLine line text = l.words line := by
  simp only [assembleLine, htokens, hline]

theorem assembleLine_wrCrcin (line : Nat) : assembleLine line "WR CRCIN, 0x41".toList = .ok [0x941#12] := by
  have htokens : tokensFrom "WR CRCIN, 0x41".toList [] =
      [.word "WR".toList, .word "CRCIN".toList, .comma, .word "0x41".toList] := by decide
  rw [assembleLine_of_lineOf htokens (l := .wr .crcin 0x41) (by decide)]
  exact words_wr_of_lt rfl (by decide) line

theorem assembleLine_rdStat (line : Nat) : assembleLine line "RD STAT ; flags".toList = .ok [0x600#12] := by
  have htokens : tokensFrom "RD STAT ; flags".toList [] = [.word "RD".toList, .word "STAT".toList] := by decide
  rw [assembleLine_of_lineOf htokens (l := .rd .stat) (by decide)]
  exact words_rd_of_readable rfl line

theorem assembleLine_rst (line : Nat) : assembleLine line "RST".toList = .ok [0x803#12] := by
  have htokens : tokensFrom "RST".toList [] = [.word "RST".toList] := by decide
  rw [assembleLine_of_lineOf htokens (l := .rst) (by decide)]
  rfl

theorem assembleLine_rdCrcin (line : Nat) :
    assembleLine line "RD CRCIN".toList = .error (.wrongDirection line .crcin) := by
  have htokens : tokensFrom "RD CRCIN".toList [] = [.word "RD".toList, .word "CRCIN".toList] := by decide
  rw [assembleLine_of_lineOf htokens (l := .rd .crcin) (by decide)]
  exact words_rd_of_not_readable rfl line

/-- Settles O56: each line of text through its tokens to its words, and the lines one after another. -/
theorem assemblyTextGivesItsWords : Obligations.AssemblyTextGivesItsWords := by
  refine ⟨?_, by decide, by decide, ?_⟩
  · rw [assemble, assembleFrom_cons_of_ok (assembleLine_wrCrcin 1), assembleFrom_cons_of_ok (assembleLine_rdStat 2)]
    rfl
  · rw [assemble, assembleFrom_cons_of_ok (assembleLine_rst 1), assembleFrom_cons_of_error (assembleLine_rdCrcin 2)]
    rfl

end Sys2Proof.Assembly
end

section
/-! The algebra of the CRC step (spec 40_crc R45, R46, R52 to R55). A shift is linear and loses nothing, since the polynomial's
bit 0 is set; eight shifts of a word whose high byte is zero carry nothing out and so move the low byte up. With the byte fed in
the high half, these three facts give the linear step, the table and the residue. -/

namespace Sys2Proof.CrcAlgebra

open Sys2Proof.Machine Sys2Proof.CrcBitSerial

/-! ### Shifts -/

theorem crcShifts_eq_iterate (n : Nat) (c : CrcWord) : crcShifts n c = crcShift^[n] c := by
  induction n generalizing c with
  | zero => rfl
  | succ n ih => rw [crcShifts, ih, Function.iterate_succ_apply]

/-- Settles O28: `crcShifts` is iteration, and the iterated function is `crcShift` with the polynomial written out. -/
theorem crcStepIsEightShifts : Obligations.CrcStepIsEightShifts := fun c b =>
  crcShifts_eq_iterate 8 (c ^^^ crcOperand b)

theorem crcShift_linear (c₁ c₂ : CrcWord) : crcShift (c₁ ^^^ c₂) = crcShift c₁ ^^^ crcShift c₂ := by
  simp only [crcShift, BitVec.getLsbD_xor, BitVec.shiftLeft_xor_distrib]
  cases c₁.getLsbD 15 <;> cases c₂.getLsbD 15
  case true.true =>
    have hpoly : (c₁ <<< 1 ^^^ Config.crcPoly) ^^^ (c₂ <<< 1 ^^^ Config.crcPoly) =
        (c₁ <<< 1 ^^^ c₂ <<< 1) ^^^ (Config.crcPoly ^^^ Config.crcPoly) := by ac_rfl
    rw [BitVec.xor_self, BitVec.xor_zero] at hpoly
    exact hpoly.symm
  all_goals simp only [Bool.xor_true, Bool.xor_false, Bool.not_false, if_true, Bool.false_eq_true, if_false]
  all_goals ac_rfl

theorem crcShifts_linear (n : Nat) (c₁ c₂ : CrcWord) :
    crcShifts n (c₁ ^^^ c₂) = crcShifts n c₁ ^^^ crcShifts n c₂ := by
  induction n generalizing c₁ c₂ with
  | zero => rfl
  | succ n ih => rw [crcShifts, crcShift_linear, ih, ← crcShifts, ← crcShifts]

/-- A result of 0 has bit 0 clear, so the polynomial, whose bit 0 is set, was not XORed in: bit 15 was clear, and the plain
shift dropped nothing. -/
theorem eq_zero_of_crcShift_eq_zero {c : CrcWord} (h : crcShift c = 0#16) : c = 0#16 := by
  unfold crcShift at h
  split at h
  next htop =>
    have hbit : ((c <<< 1) ^^^ Config.crcPoly).getLsbD 0 = true := by
      rw [BitVec.getLsbD_xor, BitVec.getLsbD_shiftLeft]
      rfl
    rw [h] at hbit
    cases hbit
  next htop =>
    refine BitVec.eq_of_getLsbD_eq fun i hi => ?_
    obtain rfl | hlow := Nat.eq_or_lt_of_le (Nat.le_of_lt_succ hi)
    · simpa using htop
    · have hbit := congrArg (BitVec.getLsbD · (i + 1)) h
      simpa [hi, show i + 1 < 16 by omega] using hbit

theorem crcShift_injective : Function.Injective crcShift := by
  intro c₁ c₂ h
  have hzero : crcShift (c₁ ^^^ c₂) = 0#16 := by rw [crcShift_linear, h, BitVec.xor_self]
  exact BitVec.xor_eq_zero_iff.1 (eq_zero_of_crcShift_eq_zero hzero)

theorem crcShifts_injective (n : Nat) : Function.Injective (crcShifts n) := by
  have heq : crcShifts n = crcShift^[n] := funext (crcShifts_eq_iterate n)
  rw [heq]
  exact crcShift_injective.iterate n

/-- With the top `n` bits clear, `n` shifts carry nothing out. -/
theorem crcShifts_of_top_clear {n : Nat} {c : CrcWord} (h : ∀ i < n, c.getMsbD i = false) :
    crcShifts n c = c <<< n := by
  induction n generalizing c with
  | zero => simp [crcShifts]
  | succ n ih =>
    have htop : c.getLsbD 15 = false := h 0 (by omega)
    have hshift : crcShift c = c <<< 1 := by rw [crcShift, htop, if_neg Bool.false_ne_true]
    rw [crcShifts, hshift, ih, ← BitVec.shiftLeft_add, Nat.add_comm]
    intro i hi
    rw [BitVec.getMsbD_shiftLeft]
    exact h (i + 1) (by omega)

/-! ### The halves of a word -/

theorem crcOperand_xor (b₁ b₂ : Byte) : crcOperand (b₁ ^^^ b₂) = crcOperand b₁ ^^^ crcOperand b₂ := by
  rw [crcOperand, BitVec.setWidth_xor, BitVec.shiftLeft_xor_distrib, ← crcOperand, ← crcOperand]

theorem joinBytes_eq_xor (hi lo : Byte) : joinBytes hi lo = crcOperand hi ^^^ lo.setWidth 16 := by
  refine BitVec.eq_of_getLsbD_eq fun i hi16 => ?_
  rw [joinBytes, BitVec.getLsbD_append, BitVec.getLsbD_xor, crcOperand, BitVec.getLsbD_shiftLeft]
  by_cases hlow : i < 8
  · simp [hlow, hi16]
  · simp [hlow, hi16, show i - 8 < 16 by omega, BitVec.getLsbD_of_ge lo i (by omega)]

theorem crcOperand_eq_joinBytes (b : Byte) : crcOperand b = joinBytes b 0x00#8 := by
  rw [joinBytes_eq_xor, BitVec.setWidth_zero, BitVec.xor_zero]

theorem zero_eq_crcOperand_iff (b : Byte) : 0x0000#16 = crcOperand b ↔ b = 0x00#8 := by
  refine ⟨fun h => ?_, fun h => h ▸ rfl⟩
  rw [← hiByte_joinBytes b 0x00#8, ← crcOperand_eq_joinBytes, ← h]
  rfl

theorem crcOperand_loByte (c : CrcWord) : crcOperand (loByte c) = c <<< 8 := by
  calc crcOperand (loByte c)
    _ = 0#16 ^^^ (loByte c).setWidth 16 <<< 8 := (BitVec.zero_xor ..).symm
    _ = (crcOperand (hiByte c) ^^^ (loByte c).setWidth 16) <<< 8 := by
      rw [BitVec.shiftLeft_xor_distrib, crcOperand_shiftLeft_eight]
    _ = c <<< 8 := by rw [← joinBytes_eq_xor, joinBytes_hiByte_loByte]

/-- Eight shifts move a low byte, with nothing above it, to the place of a fed byte. -/
theorem crcShifts_eight_setWidth (b : Byte) : crcShifts 8 (b.setWidth 16) = crcOperand b := by
  refine crcShifts_of_top_clear fun i hi => ?_
  rw [BitVec.getMsbD_eq_getLsbD, BitVec.getLsbD_setWidth, BitVec.getLsbD_of_ge b _ (by omega)]
  simp

/-! ### One step -/

theorem crcStep_linear (c₁ c₂ : CrcWord) (b₁ b₂ : Byte) :
    crcStep (c₁ ^^^ c₂) (b₁ ^^^ b₂) = crcStep c₁ b₁ ^^^ crcStep c₂ b₂ := by
  have hsplit : (c₁ ^^^ c₂) ^^^ (crcOperand b₁ ^^^ crcOperand b₂) =
      (c₁ ^^^ crcOperand b₁) ^^^ (c₂ ^^^ crcOperand b₂) := by ac_rfl
  rw [crcStep, crcOperand_xor, hsplit, crcShifts_linear, ← crcStep, ← crcStep]

theorem crcStep_zero_zero : crcStep 0x0000#16 0x00#8 = 0x0000#16 := by decide

/-- The step loses nothing: it answers 0 only where the byte cancels the register (40_crc R54, R55). -/
theorem crcStep_eq_zero_iff (c : CrcWord) (b : Byte) : crcStep c b = 0x0000#16 ↔ c = crcOperand b := by
  have hzero : crcShifts 8 0x0000#16 = 0x0000#16 := crcStep_zero_zero
  rw [crcStep, ← hzero, (crcShifts_injective 8).eq_iff, BitVec.xor_eq_zero_iff]

/-- A byte meets the high half alone; the low half moves up under what comes back (40_crc R45). -/
theorem crcStep_joinBytes (hi lo b : Byte) :
    crcStep (joinBytes hi lo) b = crcOperand lo ^^^ crcStep 0x0000#16 (hi ^^^ b) := by
  have hmeet : joinBytes hi lo ^^^ crcOperand b = lo.setWidth 16 ^^^ crcOperand (hi ^^^ b) := by
    rw [joinBytes_eq_xor, crcOperand_xor]
    ac_rfl
  rw [crcStep, hmeet, crcShifts_linear, crcShifts_eight_setWidth, crcStep, BitVec.zero_xor]

theorem crcStep_eq_crcOperand_iff (c : CrcWord) (hi lo : Byte) :
    crcStep c hi = crcOperand lo ↔ c = joinBytes hi lo := by
  have hcancel : (crcOperand hi ^^^ lo.setWidth 16) ^^^ crcOperand hi = lo.setWidth 16 := by
    rw [BitVec.xor_comm, ← BitVec.xor_assoc, BitVec.xor_self, BitVec.zero_xor]
  rw [crcStep, ← crcShifts_eight_setWidth lo, (crcShifts_injective 8).eq_iff, joinBytes_eq_xor,
    ← BitVec.xor_left_inj (x := c) (crcOperand hi), hcancel]

/-! ### Messages -/

theorem append_crc16 (m : List Byte) : (crc16 m).1 ++ (crc16 m).2 = crcFeed 0x0000#16 m :=
  joinBytes_hiByte_loByte (crcFeed 0x0000#16 m)

theorem append_crc16_singleton (b : Byte) : (crc16 [b]).1 ++ (crc16 [b]).2 = crcStep 0x0000#16 b := append_crc16 [b]

theorem crcFeed_replicate_zero (n : Nat) : crcFeed 0x0000#16 (List.replicate n 0x00#8) = 0x0000#16 := by
  induction n with
  | zero => rfl
  | succ n ih => rw [List.replicate_succ, crcFeed_cons, crcStep_zero_zero, ih]

theorem crc16_replicate_zero (n : Nat) : crc16 (List.replicate n 0x00#8) = (0x00#8, 0x00#8) := by
  have hfeed : crcFeed Config.crcInit (List.replicate n 0x00#8) = 0x0000#16 := crcFeed_replicate_zero n
  rw [crc16, hfeed]
  rfl

/-- The low byte that waits after the first of two bytes is what the second one cancels. -/
theorem crcFeed_pair_eq_zero_iff (c : CrcWord) (hi lo : Byte) :
    crcFeed c [hi, lo] = 0x0000#16 ↔ c = joinBytes hi lo := by
  rw [crcFeed_cons, crcFeed_cons, crcFeed_nil, crcStep_eq_zero_iff, crcStep_eq_crcOperand_iff]

/-- Settles O32: linearity, and the two arguments apart as `c XOR 0` and `0 XOR b`. -/
theorem crcStepIsLinear : Obligations.CrcStepIsLinear := by
  refine ⟨crcStep_linear, fun c b => ?_, fun b => (append_crc16_singleton b).symm⟩
  rw [← crcStep_linear, BitVec.xor_zero, BitVec.zero_xor]

/-- Settles O34: a difference of two bytes is fed by linearity, and from zero only the byte 0 gives 0. -/
theorem singleByteCrcsAreDistinct : Obligations.SingleByteCrcsAreDistinct := by
  have hxor (j k : Byte) : crcStep 0x0000#16 j ^^^ crcStep 0x0000#16 k = crcStep 0x0000#16 (j ^^^ k) := by
    rw [← crcStep_linear, BitVec.xor_zero]
  have hne (e : Byte) (he : e ≠ 0x00#8) : crcStep 0x0000#16 e ≠ 0x0000#16 := by
    rwa [ne_eq, crcStep_eq_zero_iff, zero_eq_crcOperand_iff]
  refine ⟨fun j k hjk h => hne (j ^^^ k) (mt BitVec.xor_eq_zero_iff.1 hjk) ?_, fun j k => ?_, hne⟩
  · rw [← hxor, ← append_crc16_singleton, ← append_crc16_singleton, h, BitVec.xor_self]
  · rw [append_crc16_singleton, append_crc16_singleton, hxor]

/-- Settles O33: the step on the register as its two bytes. -/
theorem tableDrivenCrcIsTheSame : Obligations.TableDrivenCrcIsTheSame := by
  intro c m
  have hstep (v : CrcWord) (b : Byte) : crcStep v b = (v <<< 8) ^^^
      ((crc16 [v.extractLsb' 8 8 ^^^ b]).1 ++ (crc16 [v.extractLsb' 8 8 ^^^ b]).2 : CrcWord) := by
    rw [append_crc16_singleton, ← crcOperand_loByte, ← hiByte, ← crcStep_joinBytes, joinBytes_hiByte_loByte]
  rw [crcFeed, funext fun v => funext (hstep v)]

/-- Settles O36: the two bytes follow the message, and they leave zero only from the register that holds them. -/
theorem residueZeroOnlyForTheRightCrc : Obligations.ResidueZeroOnlyForTheRightCrc := by
  intro c m hi lo
  rw [crcFeed_append]
  exact crcFeed_pair_eq_zero_iff (crcFeed c m) hi lo

/-! ### The reference value of `[0, 1, ..., 254]` -/

/-- `n` bytes that count up from `start`. -/
def countingBytes (start n : Nat) : List Byte := (List.range' start n).map (BitVec.ofNat 8)

theorem countingBytes_add (start m n : Nat) :
    countingBytes start (m + n) = countingBytes start m ++ countingBytes (start + m) n := by
  rw [countingBytes, ← List.range'_append_1, List.map_append, ← countingBytes, ← countingBytes]

/-- What `crc` holds after 0, 17, 34, ..., 255 of the bytes: evaluated in blocks of 17, the whole message being too deep for
the kernel at once. -/
def referenceCheckpoints : List CrcWord :=
  [0x0000#16, 0x65E5#16, 0x5F10#16, 0xAD45#16, 0x76FB#16, 0x2EA8#16, 0xFFF8#16, 0x2EED#16, 0x77E4#16,
    0xC4E1#16, 0x58A6#16, 0x38B6#16, 0x32F7#16, 0xF0E3#16, 0xAEB8#16, 0x0530#16]

/-- Each block of 17 bytes leads from one checkpoint to the next. -/
theorem crcFeed_block : ∀ k < 15, crcFeed (referenceCheckpoints.getD k 0#16) (countingBytes (0 + 17 * k) 17) =
    referenceCheckpoints.getD (k + 1) 0#16 := by
  decide +kernel

theorem crcFeed_blocks {k : Nat} (hk : k ≤ 15) :
    crcFeed 0x0000#16 (countingBytes 0 (17 * k)) = referenceCheckpoints.getD k 0#16 := by
  induction k with
  | zero => rfl
  | succ k ih => rw [Nat.mul_succ, countingBytes_add, crcFeed_append, ih (by omega), crcFeed_block k (by omega)]

/-- Settles O29: the pair is the two bytes of the register, and the second reference value is reached block by block. -/
theorem crcSixteenMeetsTheReferenceValues : Obligations.CrcSixteenMeetsTheReferenceValues := by
  refine ⟨append_crc16, rfl, ?_⟩
  have hfeed : crcFeed Config.crcInit ((List.range 255).map (BitVec.ofNat 8)) = 0x0530#16 := by
    rw [List.range_eq_range']
    exact crcFeed_blocks (k := 15) le_rfl
  rw [crc16, hfeed]
  rfl

end Sys2Proof.CrcAlgebra
end

section
/-! The CRC channel's transactions and the sequences made of them (spec 40_crc R47 to R52, R55, R56): each transaction's row of
the opcode map, the bytes of `crc` as numbers, and what a clear or a seed followed by a message leaves, from every state. -/

namespace Sys2Proof.CrcChannel

open Sys2Proof.Machine Sys2Proof.Safety Sys2Proof.StepFacts Sys2Proof.Idempotency Sys2Proof.CrcAlgebra

/-! ### The words -/

theorem decode_wrCrcin_iff (w : TxnWord) (d : Byte) :
    decode w = .ok (.wrCrcin d) ↔ w &&& 0xF00#12 = 0x900#12 ∧ d = w.extractLsb' 0 8 := by
  obtain ⟨hrows, -, -⟩ := Encoding.opcodeMapIsTheNineRows
  simp [hrows]

theorem decode_wrCrchi_iff (w : TxnWord) (d : Byte) :
    decode w = .ok (.wrCrchi d) ↔ w &&& 0xF00#12 = 0xA00#12 ∧ d = w.extractLsb' 0 8 := by
  obtain ⟨hrows, -, -⟩ := Encoding.opcodeMapIsTheNineRows
  simp [hrows]

theorem decode_wrCrclo_iff (w : TxnWord) (d : Byte) :
    decode w = .ok (.wrCrclo d) ↔ w &&& 0xF00#12 = 0xB00#12 ∧ d = w.extractLsb' 0 8 := by
  obtain ⟨hrows, -, -⟩ := Encoding.opcodeMapIsTheNineRows
  simp [hrows]

theorem decode_rdCrchi_iff (w : TxnWord) : decode w = .ok .rdCrchi ↔ w &&& 0xF00#12 = 0x200#12 := by
  obtain ⟨hrows, -, -⟩ := Encoding.opcodeMapIsTheNineRows
  simp [hrows]

theorem decode_rdCrclo_iff (w : TxnWord) : decode w = .ok .rdCrclo ↔ w &&& 0xF00#12 = 0x300#12 := by
  obtain ⟨hrows, -, -⟩ := Encoding.opcodeMapIsTheNineRows
  simp [hrows]

/-! ### The bytes of `crc` -/

theorem joinBytes_eq_ofNat (hi lo : Byte) : joinBytes hi lo = BitVec.ofNat 16 (hi.toNat * 256 + lo.toNat) := by
  rw [← joinBytes_toNat, BitVec.ofNat_toNat, BitVec.setWidth_eq]

theorem joinBytes_beq_zero (hi lo : Byte) : (joinBytes hi lo == 0x0000#16) = (hi == 0x00#8 && lo == 0x00#8) := by
  have hzero : joinBytes hi lo = 0x0000#16 ↔ hi = 0x00#8 ∧ lo = 0x00#8 := Encoding.append_inj_iff hi 0x00#8 lo 0x00#8
  rw [Bool.eq_iff_iff, Bool.and_eq_true, beq_iff_eq, beq_iff_eq, beq_iff_eq, hzero]

/-! ### Writes of the register -/

theorem setCrc_self (s : State) : s.setCrc s.crc = s := rfl

/-- Settles O2: `exec_wrCrcin` in the state at hand, and two feeds as a message of two bytes. -/
theorem wrCrcinFeedsOneByte : Obligations.WrCrcinFeedsOneByte := by
  refine ⟨decode_wrCrcin_iff, fun d s => ⟨_, exec_wrCrcin d s, rfl, rfl, rfl⟩, fun s hs => ?_,
    fun d s => perform_crcFeedSeq [d, d] s, fun s hs => ⟨rfl, ?_⟩⟩
  · rw [exec_wrCrcin, hs, crcStep_zero_zero, ← hs, setCrc_self]
  · have hstep : crcStep 0x0000#16 0x01#8 = 0x1021#16 := by decide
    rw [exec_wrCrcin, hs, hstep]
    rfl

/-- Settles O4: the joined bytes as a number, and zero exactly when both are. -/
theorem wrCrcloReplacesTheLowByte : Obligations.WrCrcloReplacesTheLowByte := by
  refine ⟨decode_wrCrclo_iff, fun d s => ⟨_, exec_wrCrclo d s, ?_, joinBytes_beq_zero _ d, rfl⟩, fun s hs => ⟨rfl, ?_⟩⟩
  · rw [joinBytes_eq_ofNat, hiByte_toNat]
    rfl
  · rw [exec_wrCrclo, hs]
    rfl

/-! ### Sequences -/

theorem perform_append_of_next {is : List Instr} {s t : State} (h : perform is s = .next t) (js : List Instr) :
    perform (is ++ js) s = perform js t := by
  rw [perform_append, h]

/-- `CRCRST` (30_encoding R43). -/
theorem perform_crcRst (s : State) : perform crcRst s = .next (s.setCrc 0x0000#16) := rfl

/-- The two bytes of a seed replace the whole register (40_crc R48). -/
theorem perform_crcSeed (v : CrcWord) (s : State) : perform (crcSeed v) s = .next (s.setCrc v) := by
  rw [crcSeed, perform_cons_of_exec (exec_wrCrchi ..), perform_cons_of_exec (exec_wrCrclo ..), State.setCrc_crc,
    hiByte_joinBytes, joinBytes_hiByte_loByte]
  rfl

theorem perform_crcRst_crcFeedSeq (m : List Byte) (s : State) :
    perform (crcRst ++ crcFeedSeq m) s = .next (s.setCrc (crcFeed 0x0000#16 m)) := by
  rw [perform_append_of_next (perform_crcRst s), perform_crcFeedSeq]
  rfl

theorem perform_crcSeed_crcFeedSeq (v : CrcWord) (m : List Byte) (s : State) :
    perform (crcSeed v ++ crcFeedSeq m) s = .next (s.setCrc (crcFeed v m)) := by
  rw [perform_append_of_next (perform_crcSeed v s), perform_crcFeedSeq]
  rfl

/-- A message fed where `crc` holds its clear value leaves the message's own CRC (40_crc R46, R56). -/
theorem perform_crcFeedSeq_of_clear {s : State} (hs : s.crc = 0x0000#16) (m : List Byte) :
    perform (crcFeedSeq m) s = .next (s.setCrc ((crc16 m).1 ++ (crc16 m).2)) := by
  rw [perform_crcFeedSeq, hs, append_crc16]

/-- Settles O3: the joined bytes as a number; a byte read back joins to the register it was read from; the rest are seeds. -/
theorem wrCrchiReplacesTheHighByte : Obligations.WrCrchiReplacesTheHighByte := by
  refine ⟨decode_wrCrchi_iff, fun d s => ⟨_, exec_wrCrchi d s, ?_, joinBytes_beq_zero d _, rfl⟩, fun s => ?_,
    perform_crcSeed, perform_crcSeed_crcFeedSeq 0xFFFF#16, fun s hs => ⟨rfl, ?_⟩⟩
  · rw [joinBytes_eq_ofNat, loByte_toNat]
    rfl
  · rw [← hiByte, exec_wrCrchi, joinBytes_hiByte_loByte, setCrc_self]
  · rw [exec_wrCrchi, hs]
    rfl

/-! ### Reads of the register -/

theorem exec_rdCrchi (s : State) : exec .rdCrchi s = .next (s.respond (hiByte s.crc)) := rfl

theorem exec_rdCrclo (s : State) : exec .rdCrclo s = .next (s.respond (loByte s.crc)) := rfl

theorem perform_singleton (i : Instr) (s : State) : perform [i] s = exec i s := by
  rw [perform]
  cases exec i s <;> rfl

/-- A message from a clear, and then one transaction. -/
theorem perform_crcRst_crcFeedSeq_snoc (m : List Byte) (i : Instr) (s : State) :
    perform (crcRst ++ crcFeedSeq m ++ [i]) s = exec i (s.setCrc (crcFeed 0x0000#16 m)) := by
  rw [perform_append_of_next (perform_crcRst_crcFeedSeq m s), perform_singleton]

theorem perform_crc16_rdCrchi (m : List Byte) (s : State) :
    perform (crcRst ++ crcFeedSeq m ++ [.rdCrchi]) s = .next ((s.setCrc (crcFeed 0x0000#16 m)).respond (crc16 m).1) :=
  perform_crcRst_crcFeedSeq_snoc m .rdCrchi s

theorem perform_crc16_rdCrclo (m : List Byte) (s : State) :
    perform (crcRst ++ crcFeedSeq m ++ [.rdCrclo]) s = .next ((s.setCrc (crcFeed 0x0000#16 m)).respond (crc16 m).2) :=
  perform_crcRst_crcFeedSeq_snoc m .rdCrclo s

/-- Settles O5: the read answers the high byte, also after a clear alone, which is the empty message, and after a message. -/
theorem rdCrchiReturnsTheHighByte : Obligations.RdCrchiReturnsTheHighByte := by
  refine ⟨decode_rdCrchi_iff, fun s => ?_, perform_crc16_rdCrchi [], perform_crc16_rdCrchi, fun s hs => ?_⟩
  · rw [exec_rdCrchi, hiByte_eq_ofNat]
    rfl
  · have hbyte : hiByte s.crc = 0x05#8 := by rw [hs]; rfl
    rw [exec_rdCrchi, hbyte]
    rfl

/-- Settles O6: the read answers the low byte, and neither read changes what the other one reads. -/
theorem rdCrcloReturnsTheLowByte : Obligations.RdCrcloReturnsTheLowByte := by
  refine ⟨decode_rdCrclo_iff, fun s => ?_, perform_crc16_rdCrclo, fun s => ?_, fun s hs => ?_⟩
  · rw [exec_rdCrclo, loByte_eq_ofNat]
    rfl
  · have htwo (b₁ b₂ : Byte) : (s.respond b₁).respond b₂ = { s with returned := s.returned ++ [b₁, b₂] } := by
      simp [State.respond]
    refine ⟨hiByte s.crc, loByte s.crc, (joinBytes_hiByte_loByte s.crc).symm, ?_, ?_⟩
    · rw [perform_cons_of_exec (exec_rdCrchi s), perform_singleton, exec_rdCrclo, htwo, State.respond_crc]
    · rw [perform_cons_of_exec (exec_rdCrclo s), perform_singleton, exec_rdCrchi, htwo, State.respond_crc]
  · have hbyte : loByte s.crc = 0x30#8 := by rw [hs]; rfl
    rw [exec_rdCrclo, hbyte]
    rfl

/-! ### Messages on the engine -/

/-- Settles O31: zeros feed a zero register to itself, so the engine ends where the clear alone leaves it. -/
theorem zeroMessagesHaveCrcZero : Obligations.ZeroMessagesHaveCrcZero := by
  refine ⟨crcStep_zero_zero, fun n => ⟨crc16_replicate_zero n, crc16_replicate_zero n⟩, fun n s => ?_,
    crc16_replicate_zero 1⟩
  refine ⟨_, _, perform_crcRst_crcFeedSeq _ s, perform_crcRst s, ?_⟩
  rw [crcFeed_replicate_zero]

/-- Settles O35: the two bytes of the register join to the register itself, from which they leave zero. -/
theorem messageAndItsCrcLeaveZero : Obligations.MessageAndItsCrcLeaveZero := by
  intro m s
  have hresidue (c : CrcWord) : crcFeed c [hiByte c, loByte c] = 0x0000#16 :=
    (crcFeed_pair_eq_zero_iff ..).2 (joinBytes_hiByte_loByte c).symm
  exact ⟨_, _, perform_crcFeedSeq m s, perform_crcFeedSeq [hiByte _, loByte _] _, hresidue _,
    beq_iff_eq.2 (hresidue _)⟩

/-- The message `123456789` of the check values (40_crc R56). -/
def checkMessage : List Byte := [0x31#8, 0x32#8, 0x33#8, 0x34#8, 0x35#8, 0x36#8, 0x37#8, 0x38#8, 0x39#8]

theorem crcFeed_checkMessage :
    crcFeed 0xFFFF#16 checkMessage = 0x29B1#16 ∧ crcFeed 0x0000#16 checkMessage = 0x31C3#16 := by decide +kernel

/-- Settles O37: a seed, a clear, the reset state and the reset event each fix the start value, and the check values are
evaluated. -/
theorem seededCrcStartsFromTheSeed : Obligations.SeededCrcStartsFromTheSeed := by
  obtain ⟨hseeded, hclear⟩ := crcFeed_checkMessage
  refine ⟨perform_crcSeed_crcFeedSeq 0xFFFF#16, fun s => ?_, fun s => ?_, fun m s => ?_,
    perform_crcFeedSeq_of_clear State.reset_crc,
    fun m s rest hp => ⟨_, step_resetInput hp, perform_crcFeedSeq_of_clear s.takeReset_crc m⟩⟩
  · rw [← checkMessage, perform_crcSeed_crcFeedSeq, hseeded]
    rfl
  · rw [← checkMessage, perform_crcRst_crcFeedSeq, hclear]
    rfl
  · rw [perform_crcRst_crcFeedSeq, append_crc16]
    rfl

end Sys2Proof.CrcChannel
end

section
/-! The CHK channel's function and its transactions (spec 41_chk R57 to R63): `twos8` as the negation of a byte, `sum` as the
exact sum of the bytes added, and what a clear followed by a message leaves and returns, from every state. -/

namespace Sys2Proof.ChkChannel

open Sys2Proof.Machine Sys2Proof.Safety Sys2Proof.StepFacts Sys2Proof.CrcChannel

/-! ### Two's complement -/

/-- Settles O40: the integer `mod 256` of the definition is never negative, so reading it as a number loses nothing. -/
theorem twosComplementIsTheSourceFormula : Obligations.TwosComplementIsTheSourceFormula := by
  intro v
  rw [twos8, BitVec.toNat_ofInt, Int.toNat_of_nonneg (Int.emod_nonneg _ (by decide))]
  rfl

/-- `twos8` is the negation of bit vectors (41_chk R58). -/
theorem twos8_eq_neg (v : Byte) : twos8 v = -v := by
  apply BitVec.eq_of_toNat_eq
  rw [twos8_eq_ofNat, BitVec.toNat_ofNat, BitVec.toNat_neg]

theorem add_eq_zero_iff (v w : Byte) : v + w = 0x00#8 ↔ (v.toNat + w.toNat) % 256 = 0 := by
  rw [← BitVec.toNat_inj, BitVec.toNat_add]
  rfl

/-- The check law (41_chk R62): the byte that brings a sum to zero is the negation of the sum. -/
theorem twos8_eq_iff (v cc : Byte) : twos8 v = cc ↔ (v.toNat + cc.toNat) % 256 = 0 := by
  rw [twos8_eq_neg, neg_eq_iff_add_eq_zero, ← add_eq_zero_iff]
  rfl

/-- A byte is its own negation when twice the byte is 0 or 256. -/
theorem twos8_eq_self_iff (v : Byte) : twos8 v = v ↔ v = 0x00#8 ∨ v = 0x80#8 := by
  rw [twos8_eq_iff]
  bv_omega

/-- Settles O41: negation is an involution, and the four vectors are evaluated. -/
theorem twosComplementIsAnInvolution : Obligations.TwosComplementIsAnInvolution := by
  refine ⟨fun v => ?_, fun v => ?_, twos8_eq_self_iff, by decide, by decide, by decide, by decide⟩
  · rw [twos8_eq_neg, BitVec.toNat_neg]
  · rw [twos8_eq_neg, twos8_eq_neg, neg_neg]

/-! ### The sum of a message -/

theorem sumFeed_eq_sumValue (v : Byte) (m : List Byte) : sumFeed v m = sumValue ⟨v, m⟩ := by
  induction m using List.reverseRecOn with
  | nil => exact (sumValue_start v).symm
  | append_singleton m b ih => rw [sumFeed_append, ih]; exact (sumValue_feed ⟨v, m⟩ b).symm

theorem toNat_sumFeed (v : Byte) (m : List Byte) :
    (sumFeed v m).toNat = (v.toNat + (m.map BitVec.toNat).sum) % 256 := by
  rw [sumFeed_eq_sumValue, sumValue, BitVec.toNat_ofNat]

theorem sumFeed_eq_ofNat (v : Byte) (m : List Byte) :
    sumFeed v m = BitVec.ofNat 8 ((v.toNat + (m.map BitVec.toNat).sum) % 256) := by
  rw [← toNat_sumFeed, BitVec.ofNat_toNat, BitVec.setWidth_eq]

theorem sumFeed_perm {m m' : List Byte} (h : m.Perm m') (v : Byte) : sumFeed v m = sumFeed v m' := by
  rw [sumFeed_eq_ofNat, sumFeed_eq_ofNat, (h.map BitVec.toNat).sum_nat]

theorem sumFeed_clear_eq_ofNat (m : List Byte) :
    sumFeed 0x00#8 m = BitVec.ofNat 8 ((m.map BitVec.toNat).sum % 256) := by
  rw [sumFeed_eq_ofNat, BitVec.toNat_zero, Nat.zero_add]

/-! ### One transaction -/

theorem decode_wrChkin_iff (w : TxnWord) (d : Byte) :
    decode w = .ok (.wrChkin d) ↔ w &&& 0xF00#12 = 0xC00#12 ∧ d = w.extractLsb' 0 8 := by
  obtain ⟨hrows, -, -⟩ := Encoding.opcodeMapIsTheNineRows
  simp [hrows]

theorem decode_rdChkout_iff (w : TxnWord) : decode w = .ok .rdChkout ↔ w &&& 0xF00#12 = 0x500#12 := by
  obtain ⟨hrows, -, -⟩ := Encoding.opcodeMapIsTheNineRows
  simp [hrows]

theorem exec_wrChkin (d : Byte) (s : State) : exec (.wrChkin d) s = .next (s.setSum (s.sum + d)) := rfl

theorem exec_rdChkout (s : State) : exec .rdChkout s = .next (s.respond (twos8 s.sum)) := rfl

theorem chkz_iff (s : State) : chkz s = true ↔ s.sum = 0x00#8 := beq_iff_eq

theorem setSum_self (s : State) : s.setSum s.sum = s := rfl

/-- Settles O7: `exec_wrChkin` in the state at hand; one byte and the same byte twice are messages of one and two bytes. -/
theorem wrChkinAddsModulo256 : Obligations.WrChkinAddsModulo256 := by
  refine ⟨decode_wrChkin_iff, fun d s => ⟨_, exec_wrChkin d s, ?_, ?_, rfl⟩, fun s => ?_, fun d s => ?_, fun s hs => ?_⟩
  · rw [← sumFeed_nil (s.sum + d), ← sumFeed_cons, sumFeed_eq_ofNat]
    rfl
  · rw [Bool.eq_iff_iff, chkz_iff, State.setSum_sum, add_eq_zero_iff, decide_eq_true_iff]
  · rw [exec_wrChkin, BitVec.add_zero, setSum_self]
  · refine (perform_chkFeedSeq [d, d] s).trans ?_
    rw [sumFeed_eq_ofNat, Nat.add_assoc]
    rfl
  · refine ⟨_, rfl, exec_wrChkin .., ?_, ?_⟩
    · rw [hs]
      rfl
    · rw [chkz_iff, State.setSum_sum, hs]
      rfl

/-! ### Sequences -/

/-- `CHKRST` (30_encoding R43). -/
theorem perform_chkRst (s : State) : perform chkRst s = .next (s.setSum 0x00#8) := rfl

theorem perform_chkRst_chkFeedSeq (m : List Byte) (s : State) :
    perform (chkRst ++ chkFeedSeq m) s = .next (s.setSum (sumFeed 0x00#8 m)) := by
  rw [perform_append_of_next (perform_chkRst s), perform_chkFeedSeq]
  rfl

theorem perform_chkRst_chkFeedSeq_rdChkout (m : List Byte) (s : State) :
    perform (chkRst ++ chkFeedSeq m ++ [.rdChkout]) s =
      .next ((s.setSum (sumFeed 0x00#8 m)).respond (twos8 (sumFeed 0x00#8 m))) := by
  rw [perform_append_of_next (perform_chkRst_chkFeedSeq m s), perform_singleton, exec_rdChkout, State.setSum_sum]

theorem bytesReturned_of_perform {is : List Instr} {s t : State} (h : perform is { s with returned := [] } = .next t) :
    bytesReturned is s = some t.returned := by
  simp [bytesReturned, h]

/-- The checksum read after a message brings the message's exact sum to 0 mod 256 (41_chk R60). -/
theorem sum_add_checksum (m : List Byte) :
    ((m.map BitVec.toNat).sum + (twos8 (sumFeed 0x00#8 m)).toNat) % 256 = 0 := by
  have hlaw := (twos8_eq_iff (sumFeed 0x00#8 m) _).1 rfl
  rwa [toNat_sumFeed, BitVec.toNat_zero, Nat.zero_add, Nat.mod_add_mod] at hlaw

/-- Settles O8: the read answers `twos8` of `sum`, evaluated for the three values named, and after a message it answers the
message's checksum. -/
theorem rdChkoutReturnsTheChecksum : Obligations.RdChkoutReturnsTheChecksum := by
  have hread {v cc : Byte} (hcc : twos8 v = cc) (s : State) (hs : s.sum = v) : exec .rdChkout s = .next (s.respond cc) := by
    rw [exec_rdChkout, hs, hcc]
  exact ⟨decode_rdChkout_iff, exec_rdChkout, hread (by decide), hread (by decide),
    fun m s => ⟨_, _, perform_chkRst_chkFeedSeq_rdChkout m s, sum_add_checksum m⟩, hread (by decide)⟩

/-- Settles O42: the sum of the bytes as numbers does not depend on their order. -/
theorem sumIsExactModulo256InAnyOrder : Obligations.SumIsExactModulo256InAnyOrder := by
  intro m m' s hperm
  refine ⟨_, perform_chkRst_chkFeedSeq m s, ?_, ?_⟩
  · rw [perform_chkRst_chkFeedSeq, sumFeed_perm hperm]
  · rw [sumFeed_clear_eq_ofNat]
    rfl

/-- Settles O43: CHKZ after the candidate byte says that the sum with it is zero, which is the check law at that sum. -/
theorem checksumMatchesWhenTheSumIsZero : Obligations.ChecksumMatchesWhenTheSumIsZero := by
  refine ⟨twos8_eq_iff, fun m cc s => ⟨_, _, bytesReturned_of_perform (perform_chkRst_chkFeedSeq_rdChkout m _),
    perform_chkRst_chkFeedSeq (m ++ [cc]) s, ?_⟩⟩
  rw [chkz_iff, State.setSum_sum, sumFeed_append, sumFeed_cons, sumFeed_nil, add_eq_zero_iff, twos8_eq_iff]

/-- Settles O44: a message of one byte from a clear, and its checksum. -/
theorem engineComputesTwosComplementOfAByte : Obligations.EngineComputesTwosComplementOfAByte := by
  intro v s
  have hsum : sumFeed 0x00#8 [v] = v := BitVec.zero_add v
  have hseq := perform_chkRst_chkFeedSeq_rdChkout [v] s
  rw [hsum] at hseq
  exact hseq

end Sys2Proof.ChkChannel
end

section
/-! The control and status transactions (spec 42_control_status R65, R66): the words of WR CTRL and what it leaves, or that it
is refused whole; and the byte that RD STAT answers, whose two bits are the zero flags, after a clear and a message. -/

namespace Sys2Proof.ControlStatus

open Sys2Proof.Machine Sys2Proof.StepFacts Sys2Proof.Idempotency Sys2Proof.CrcAlgebra Sys2Proof.CrcChannel
open Sys2Proof.ChkChannel

/-! ### The words -/

theorem decode_wrCtrl_iff (w : TxnWord) (d : Byte) :
    decode w = .ok (.wrCtrl d) ↔ w &&& 0xFFC#12 = 0x800#12 ∧ d = w.extractLsb' 0 8 := by
  obtain ⟨hrows, -, -⟩ := Encoding.opcodeMapIsTheNineRows
  simp [hrows]

theorem decode_rdStat_iff (w : TxnWord) : decode w = .ok .rdStat ↔ w &&& 0xF00#12 = 0x600#12 := by
  obtain ⟨hrows, -, -⟩ := Encoding.opcodeMapIsTheNineRows
  simp [hrows]

theorem decode_eq_error_iff (w : TxnWord) (why : RefusalReason) :
    decode w = .error why ↔ (¬ ∃ i, decode w = .ok i) ∧ why = refusalReason w := by
  unfold decode
  split <;> simp [eq_comm]

/-- A write at CTRL's offset has a register and its direction, so nothing but its data byte can be wrong (60_exceptions
R81). -/
theorem refusalReason_of_ctrl {w : TxnWord} (h : w.extractLsb' 8 4 = 0x8#4) : refusalReason w = .reservedCtrlBits w := by
  have hoffset : fieldA w = (w.extractLsb' 8 4).extractLsb' 0 3 := by
    ext i hi
    simp [fieldA, Nat.lt_succ_of_lt hi]
  rw [refusalReason, hoffset, Encoding.fieldW_eq_getLsbD_top, h]
  rfl

theorem decode_of_ctrl_reserved {w : TxnWord} (hctrl : w &&& 0xF00#12 = 0x800#12) (hbits : w.extractLsb' 2 6 ≠ 0#6) :
    decode w = .error (.reservedCtrlBits w) := by
  have htop : w.extractLsb' 8 4 = 0x8#4 := (Encoding.and_top_eq_iff w 0x8#4).1 hctrl
  refine (decode_eq_error_iff w _).2 ⟨?_, (refusalReason_of_ctrl htop).symm⟩
  rw [Encoding.exists_decode_ok_iff, htop]
  simp [hbits]

/-! ### WR CTRL -/

theorem ctrlReservedClear_iff (d : Byte) : ctrlReservedClear d = true ↔ d.extractLsb' 2 6 = 0#6 :=
  beq_iff_eq.trans (Encoding.and_eq_append_zero_iff (m := 6) (k := 2) d 0#6)

theorem clearCrcIf_clearSumIf (s : State) (crcFlag sumFlag : Bool) :
    (s.clearCrcIf crcFlag).clearSumIf sumFlag =
      { s with crc := if crcFlag then 0x0000#16 else s.crc, sum := if sumFlag then 0x00#8 else s.sum } := by
  cases crcFlag <;> cases sumFlag <;> rfl

theorem crcz_iff (s : State) : crcz s = true ↔ s.crc = 0x0000#16 := beq_iff_eq

/-- The refused word is the transaction's own (60_exceptions R80). -/
theorem exec_wrCtrl_of_reserved {d : Byte} (h : d.extractLsb' 2 6 ≠ 0#6) (s : State) :
    exec (.wrCtrl d) s = .refused (.reserved (.reservedCtrlBits (0x8#4 ++ d)) s.index) :=
  if_neg (mt (ctrlReservedClear_iff d).1 h)

/-- Settles O1: the row of WR CTRL and the refusal of its reserved words; the two clears as one update of the state, or the
refusal with the transaction's word; and the corner cases are evaluated. -/
theorem wrCtrlClearsTheChosenChannels : Obligations.WrCtrlClearsTheChosenChannels := by
  refine ⟨decode_wrCtrl_iff, fun _ => decode_of_ctrl_reserved, fun d s hd => ?_,
    fun d s hd => exec_wrCtrl_of_reserved hd s, fun _ => rfl, fun _ => rfl, rfl, rfl, fun s _ hsum => ⟨rfl, ?_⟩⟩
  · refine ⟨_, exec_wrCtrl_of_clear ((ctrlReservedClear_iff d).2 hd) s, clearCrcIf_clearSumIf s _ _, fun hcrc => ?_,
      fun hsum => ?_⟩
    · rw [crcz_iff, clearCrcIf_clearSumIf]
      exact if_pos hcrc
    · rw [chkz_iff, clearCrcIf_clearSumIf]
      exact if_pos hsum
  · rw [← hsum]
    rfl

/-! ### RD STAT -/

theorem exec_rdStat (s : State) : exec .rdStat s = .next (s.respond (statByte s)) := rfl

theorem statByte_getLsbD_zero (s : State) : (statByte s).getLsbD 0 = crcz s :=
  BitVec.getLsbD_append.trans (by simp)

theorem statByte_getLsbD_one (s : State) : (statByte s).getLsbD 1 = chkz s :=
  BitVec.getLsbD_append.trans (BitVec.getLsbD_append.trans (by simp))

/-- RD STAT after a sequence returns the flags of the state that the sequence leaves. -/
theorem bytesReturned_snoc_rdStat {is : List Instr} {s t : State} (h : perform is { s with returned := [] } = .next t)
    (ht : t.returned = []) : bytesReturned (is ++ [.rdStat]) s = some [statByte t] := by
  have hread : perform (is ++ [.rdStat]) { s with returned := [] } = .next (t.respond (statByte t)) := by
    rw [perform_append_of_next h, perform_singleton, exec_rdStat]
  rw [bytesReturned_of_perform hread, State.respond_returned, ht, List.nil_append]

/-- Bit 0 after a clear and a message says whether the message's CRC is zero. -/
theorem rdStat_after_crcFeed (m : List Byte) (s : State) :
    ∃ b : Byte, bytesReturned (crcRst ++ crcFeedSeq m ++ [.rdStat]) s = some [b] ∧
      (b.getLsbD 0 = true ↔ crcFeed 0x0000#16 m = 0x0000#16) := by
  refine ⟨_, bytesReturned_snoc_rdStat (perform_crcRst_crcFeedSeq m _) rfl, ?_⟩
  rw [statByte_getLsbD_zero, crcz_iff, State.setCrc_crc]

/-- Bit 1 after a clear and a message says whether the message's sum is zero. -/
theorem rdStat_after_chkFeed (m : List Byte) (s : State) :
    ∃ b : Byte, bytesReturned (chkRst ++ chkFeedSeq m ++ [.rdStat]) s = some [b] ∧
      (b.getLsbD 1 = true ↔ sumFeed 0x00#8 m = 0x00#8) := by
  refine ⟨_, bytesReturned_snoc_rdStat (perform_chkRst_chkFeedSeq m _) rfl, ?_⟩
  rw [statByte_getLsbD_one, chkz_iff, State.setSum_sum]

/-- A message followed by its own CRC has the CRC zero (40_crc R55). -/
theorem crcFeed_append_crc16 (m : List Byte) : crcFeed 0x0000#16 (m ++ [(crc16 m).1, (crc16 m).2]) = 0x0000#16 := by
  rw [crcFeed_append, crcFeed_pair_eq_zero_iff]
  exact (append_crc16 m).symm

/-- A message followed by its checksum has the sum zero (41_chk R62). -/
theorem sumFeed_append_twos8 (m : List Byte) : sumFeed 0x00#8 (m ++ [twos8 (sumFeed 0x00#8 m)]) = 0x00#8 := by
  rw [sumFeed_append, sumFeed_cons, sumFeed_nil, add_eq_zero_iff, ← twos8_eq_iff]

/-- Settles O9: the byte is the two flags in every state, and a message of zeros, a message with its CRC and a record with its
checksum each leave their channel at zero. -/
theorem rdStatReturnsTheZeroFlags : Obligations.RdStatReturnsTheZeroFlags := by
  refine ⟨decode_rdStat_iff, fun s => ?_, rfl, fun n s => ?_, fun m s => ?_, fun r s hr => ?_, fun s hcrc hsum => ?_⟩
  · rw [exec_rdStat, statByte_eq_ofNat]
    rfl
  · obtain ⟨b, hread, hflag⟩ := rdStat_after_crcFeed (List.replicate n 0x00#8) s
    exact ⟨b, hread, hflag.2 (crcFeed_replicate_zero n)⟩
  · obtain ⟨b, hread, hflag⟩ := rdStat_after_crcFeed (m ++ [(crc16 m).1, (crc16 m).2]) s
    exact ⟨b, hread, hflag.2 (crcFeed_append_crc16 m)⟩
  · obtain ⟨b, hread, hflag⟩ := rdStat_after_chkFeed (r.preceding ++ [r.checksum]) s
    refine ⟨b, hread, hflag.2 ?_⟩
    rw [hr]
    exact sumFeed_append_twos8 r.preceding
  · have hbyte : statByte s = 0x02#8 := by rw [statByte_eq_ofNat, hcrc, hsum]; rfl
    rw [exec_rdStat, hbyte]
    rfl

end Sys2Proof.ControlStatus
end

section
/-! The CRC sequence of a host (spec 45_composite_sequences R77): clear, feed and two reads, alone and with any CHK computation
between its transactions. -/

namespace Sys2Proof.CrcSequence

open Sys2Proof.Machine Sys2Proof.Safety Sys2Proof.StepFacts Sys2Proof.CrcChannel Sys2Proof.ChkChannel

/-! ### The sequence alone -/

/-- `CRCGET` (30_encoding R43). -/
theorem perform_crcGet (s : State) :
    perform crcGet s = .next { s with returned := s.returned ++ [hiByte s.crc, loByte s.crc] } := by
  rw [crcGet, perform_cons_of_exec (exec_rdCrchi s), perform_singleton, exec_rdCrclo]
  simp [State.respond]

theorem perform_crc16OnEngine (m : List Byte) (s : State) :
    perform (crc16OnEngine m) s =
      .next { s with crc := crcFeed 0x0000#16 m, returned := s.returned ++ [(crc16 m).1, (crc16 m).2] } := by
  rw [crc16OnEngine, perform_append_of_next (perform_crcRst_crcFeedSeq m s), perform_crcGet]
  rfl

theorem bytesReturned_crc16OnEngine (m : List Byte) (s : State) :
    bytesReturned (crc16OnEngine m) s = some [(crc16 m).1, (crc16 m).2] :=
  bytesReturned_of_perform (perform_crc16OnEngine m _)

/-! ### The sequence interleaved -/

theorem answerOf_of_not_isRead {i : Instr} (h : isRead i = false) (c : CrcWord) (v : Byte) : answerOf c v i = [] := by
  cases i with
  | rdCrchi | rdCrclo | rdChkout | rdStat => cases h
  | _ => rfl

theorem answerOf_of_isRead {i : Instr} (h : isRead i = true) (c : CrcWord) (v : Byte) : ∃ b, answerOf c v i = [b] := by
  cases i with
  | rdCrchi | rdCrclo | rdChkout | rdStat => exact ⟨_, rfl⟩
  | _ => cases h

/-- What a transaction on `crc` returns does not depend on `sum` (10_state R15). -/
theorem answerOf_of_touchesCrc {i : Instr} (h : touchesCrc i = true) (c : CrcWord) (v v' : Byte) :
    answerOf c v i = answerOf c v' i := by
  cases i with
  | rdChkout | rdStat => cases h
  | _ => rfl

/-- Of the bytes that the reads of a sequence returned, one each, those that its reads of `crc` returned. -/
def crcAnswers (is : List Instr) (answers : List Byte) : List Byte :=
  (((is.filter isRead).zip answers).filter fun p => touchesCrc p.1).map Prod.snd

theorem crcAnswers_cons (i : Instr) (is : List Instr) (c : CrcWord) (v : Byte) (answers : List Byte) :
    crcAnswers (i :: is) (answerOf c v i ++ answers) =
      (if touchesCrc i then answerOf c v i else []) ++ crcAnswers is answers := by
  cases hread : isRead i with
  | false => simp [crcAnswers, answerOf_of_not_isRead hread, hread]
  | true =>
    obtain ⟨b, hb⟩ := answerOf_of_isRead hread c v
    cases htouch : touchesCrc i <;> simp [crcAnswers, hb, hread, htouch]

theorem length_filter_isRead_cons (i : Instr) (is : List Instr) (c : CrcWord) (v : Byte) :
    ((i :: is).filter isRead).length = (answerOf c v i).length + (is.filter isRead).length := by
  cases hread : isRead i with
  | false => simp [answerOf_of_not_isRead hread, hread]
  | true =>
    obtain ⟨b, hb⟩ := answerOf_of_isRead hread c v
    simp [hb, hread, Nat.add_comm]

/-- A sequence returns one byte for each read, and its reads of `crc` return what they return with every transaction left
out that does not touch `crc` (10_state R15). -/
theorem perform_returned {is : List Instr} {s s' t u : State} (h : perform is s = .next t)
    (h' : perform (is.filter touchesCrc) s' = .next u) (hcrc : s'.crc = s.crc) :
    ∃ answers, t.returned = s.returned ++ answers ∧ answers.length = (is.filter isRead).length ∧
      u.returned = s'.returned ++ crcAnswers is answers := by
  induction is generalizing s s' with
  | nil =>
    cases h
    cases h'
    exact ⟨[], by simp [crcAnswers]⟩
  | cons i is ih =>
    obtain ⟨v, hv, hrest⟩ := perform_cons_next h
    suffices hsplit : ∃ answers, t.returned = v.returned ++ answers ∧ answers.length = (is.filter isRead).length ∧
        u.returned = s'.returned ++ (if touchesCrc i then answerOf s.crc s.sum i else []) ++ crcAnswers is answers by
      obtain ⟨answers, ht, hlength, hu⟩ := hsplit
      refine ⟨answerOf s.crc s.sum i ++ answers, ?_, ?_, ?_⟩
      · rw [ht, exec_returned hv, List.append_assoc]
      · rw [length_filter_isRead_cons, List.length_append, hlength]
      · rw [hu, crcAnswers_cons, List.append_assoc]
    cases htouch : touchesCrc i with
    | false =>
      rw [List.filter_cons_of_neg (by simp [htouch])] at h'
      have hkeep := ChannelIndependence.exec_crc_of_not_touches htouch hv
      simpa using ih hrest h' (hcrc.trans hkeep.symm)
    | true =>
      rw [List.filter_cons_of_pos htouch] at h'
      obtain ⟨v', hv', hrest'⟩ := perform_cons_next h'
      have hsame := answerOf_of_touchesCrc htouch s.crc s'.sum s.sum
      simpa [exec_returned hv', hcrc, hsame] using ih hrest hrest' (ChannelIndependence.exec_crc_congr hv hv' hcrc)

/-- Settles O45: the sequence alone, and with it what the reads of `crc` return in a sequence that leaves it after
everything else is left out. -/
theorem engineSequenceComputesCrcSixteen : Obligations.EngineSequenceComputesCrcSixteen := by
  refine ⟨perform_crc16OnEngine, fun m is s hwf hfilter => ?_⟩
  obtain ⟨t, ht⟩ := perform_of_wellFormed hwf s
  have halone := perform_crc16OnEngine m s
  rw [crc16OnEngine, ← hfilter] at halone
  obtain ⟨answers, hreturned, hlength, hcrcReads⟩ := perform_returned ht halone rfl
  exact ⟨t, answers, ht, hreturned, hlength, (List.append_cancel_left hcrcReads).symm⟩

end Sys2Proof.CrcSequence
end

section
/-! A list of bytes cut into pieces: the 16-byte HEX records and the 128-byte pages of an image (spec 45_composite_sequences R72,
R75). -/

namespace Sys2Proof.Pieces

open Sys2Proof.Machine

/-- The fuel left after a piece is enough for the rest of the list. -/
theorem length_drop_le_fuel {size fuel : Nat} (hsize : 0 < size) {b : Byte} {bs : List Byte}
    (hfuel : (b :: bs).length ≤ fuel + 1) : ((b :: bs).drop size).length ≤ fuel := by
  rw [List.length_drop]
  omega

theorem getElem?_piecesFuel {size fuel : Nat} (hsize : 0 < size) {bytes : List Byte} (hfuel : bytes.length ≤ fuel) (k : Nat) :
    (piecesFuel size fuel bytes)[k]? =
      if size * k < bytes.length then some ((bytes.drop (size * k)).take size) else none := by
  induction fuel generalizing bytes k with
  | zero => simp [piecesFuel, List.eq_nil_of_length_eq_zero (Nat.le_zero.1 hfuel)]
  | succ fuel ih =>
    cases bytes with
    | nil => simp [piecesFuel]
    | cons b bs =>
      cases k with
      | zero => simp [piecesFuel]
      | succ k =>
        have hrest := length_drop_le_fuel hsize hfuel
        have hshorter : size * k < ((b :: bs).drop size).length ↔ size * (k + 1) < (b :: bs).length := by
          rw [List.length_drop, Nat.mul_succ]
          omega
        rw [piecesFuel, List.getElem?_cons_succ, ih hrest, if_congr hshorter rfl rfl, List.drop_drop, Nat.mul_succ,
          Nat.add_comm size]

theorem flatten_take_piecesFuel {size fuel : Nat} (hsize : 0 < size) {bytes : List Byte} (hfuel : bytes.length ≤ fuel)
    (k : Nat) : ((piecesFuel size fuel bytes).take k).flatten = bytes.take (size * k) := by
  induction fuel generalizing bytes k with
  | zero => simp [piecesFuel, List.eq_nil_of_length_eq_zero (Nat.le_zero.1 hfuel)]
  | succ fuel ih =>
    cases bytes with
    | nil => simp [piecesFuel]
    | cons b bs =>
      cases k with
      | zero => simp
      | succ k =>
        have hrest := length_drop_le_fuel hsize hfuel
        rw [piecesFuel, List.take_succ_cons, List.flatten_cons, ih hrest, Nat.mul_succ, Nat.add_comm, List.take_add]

section Pieces

variable {size : Nat} (hsize : 0 < size) (bytes : List Byte)
include hsize

/-- A piece holds the `size` bytes from its place on, fewer at the end of the list. -/
theorem getElem?_pieces (k : Nat) : (pieces size bytes)[k]? =
    if size * k < bytes.length then some ((bytes.drop (size * k)).take size) else none :=
  getElem?_piecesFuel hsize le_rfl k

theorem lt_length_pieces_iff (k : Nat) : k < (pieces size bytes).length ↔ size * k < bytes.length := by
  rw [← not_iff_not, Nat.not_lt, ← List.getElem?_eq_none_iff, getElem?_pieces hsize]
  simp

theorem flatten_take_pieces (k : Nat) : ((pieces size bytes).take k).flatten = bytes.take (size * k) :=
  flatten_take_piecesFuel hsize le_rfl k

theorem flatten_pieces : (pieces size bytes).flatten = bytes := by
  have hlong : bytes.length ≤ size * bytes.length := Nat.le_mul_of_pos_left _ hsize
  have hall : (pieces size bytes).length ≤ bytes.length :=
    Nat.le_of_not_lt fun hlt => absurd ((lt_length_pieces_iff hsize bytes _).1 hlt) (by omega)
  have htake := flatten_take_pieces hsize bytes bytes.length
  rwa [List.take_of_length_le hall, List.take_of_length_le hlong] at htake

theorem length_le_of_mem_pieces {bytes : List Byte} {p : List Byte} (hp : p ∈ pieces size bytes) : p.length ≤ size := by
  obtain ⟨k, hk⟩ := List.mem_iff_getElem?.1 hp
  rw [getElem?_pieces hsize] at hk
  split at hk
  · cases hk
    exact List.length_take_le size _
  · cases hk

end Pieces

end Sys2Proof.Pieces
end

section
/-! Intel HEX records (spec 45_composite_sequences R68, R75): the check of a record by the engine as a test of its bytes, what
the decoder raises, and the records that the encoder writes. -/

namespace Sys2Proof.HexRecords

open Sys2Proof.Machine Sys2Proof.ChkChannel Sys2Proof.ControlStatus Sys2Proof.Pieces

/-! ### The check of a record -/

theorem hexRecordOk_iff_twos8 (r : HexRecord) (s : State) :
    hexRecordOk r s = true ↔ twos8 (sumFeed 0x00#8 r.preceding) = r.checksum := by
  have hread : bytesReturned (hexCheckSeq r) s = some [twos8 (sumFeed 0x00#8 r.preceding)] :=
    bytesReturned_of_perform (perform_chkRst_chkFeedSeq_rdChkout r.preceding _)
  rw [hexRecordOk, hread, beq_iff_eq, Option.some_inj, List.singleton_inj]

theorem hexResidueOk_iff_sumFeed (r : HexRecord) (s : State) :
    hexResidueOk r s = true ↔ sumFeed 0x00#8 (r.preceding ++ [r.checksum]) = 0x00#8 := by
  obtain ⟨b, hread, hflag⟩ := rdStat_after_chkFeed (r.preceding ++ [r.checksum]) s
  rw [hexResidueOk, hexResidueSeq, hread, ← hflag]

theorem hexRecordOk_iff_sum (r : HexRecord) (s : State) :
    hexRecordOk r s = true ↔ ((r.preceding.map BitVec.toNat).sum + r.checksum.toNat) % 256 = 0 := by
  rw [hexRecordOk_iff_twos8, twos8_eq_iff, toNat_sumFeed, BitVec.toNat_zero, Nat.zero_add, Nat.mod_add_mod]

/-- Settles O46: both tests say that the checksum brings the sum of the other bytes to zero. -/
theorem hexRecordCheckIsTheChecksumTest : Obligations.HexRecordCheckIsTheChecksumTest := by
  refine fun r s => ⟨hexRecordOk_iff_sum r s, ?_⟩
  rw [Bool.eq_iff_iff, hexResidueOk_iff_sumFeed, hexRecordOk_iff_twos8, sumFeed_append, sumFeed_cons, sumFeed_nil,
    add_eq_zero_iff, twos8_eq_iff]

/-! ### What the decoder raises -/

theorem supported_of_data {r : HexRecord} (h : r.kind = 0x00#8) : r.supported = true := by
  simp [HexRecord.supported, h]

theorem supported_of_eof {r : HexRecord} (h : r.kind = 0x01#8) : r.supported = true := by
  simp [HexRecord.supported, h]

theorem supported_of_addressZero {r : HexRecord} (h : r.kind = 0x04#8) (hzero : r.payload = [0x00#8, 0x00#8]) :
    r.supported = true := by
  simp [HexRecord.supported, h, hzero]

theorem not_supported_of_kind {r : HexRecord} (h : r.kind ∉ [0x00#8, 0x01#8, 0x04#8]) : r.supported = false := by
  simp only [List.mem_cons, List.not_mem_nil, or_false, not_or] at h
  simp [HexRecord.supported, h]

theorem not_supported_of_address {r : HexRecord} (h : r.kind = 0x04#8) (hvalue : r.payload ≠ [0x00#8, 0x00#8]) :
    r.supported = false := by
  simp [HexRecord.supported, h, hvalue]

theorem hexRecordError_of_not_supported {r : HexRecord} (h : r.supported = false) (s : State) :
    hexRecordError r s = some .unsupportedInput := by
  simp [hexRecordError, h]

theorem hexRecordError_of_ok {r : HexRecord} {s : State} (h : r.supported = true) (hok : hexRecordOk r s = true) :
    hexRecordError r s = none := by
  simp [hexRecordError, h, hok]

theorem hexRecordError_of_data {r : HexRecord} (h : r.kind = 0x00#8) (s : State) :
    hexRecordError r s = if hexRecordOk r s then none else some .checksumMismatch := by
  cases hok : hexRecordOk r s <;> simp [hexRecordError, supported_of_data h, h, hok]

/-- Settles O58: an unsupported record is refused first, a data record turns on its check, and a record whose check succeeds
raises nothing whether it is checked or not. -/
theorem hexDecoderRaisesItsErrors : Obligations.HexDecoderRaisesItsErrors := by
  refine fun r s => ⟨fun hdata => ?_, fun hkind => hexRecordError_of_not_supported (not_supported_of_kind hkind) s,
    fun hkind hvalue => hexRecordError_of_not_supported (not_supported_of_address hkind hvalue) s, fun hkind hsum => ?_⟩
  · rw [hexRecordError_of_data hdata]
    exact if_congr (hexRecordOk_iff_sum r s) rfl rfl
  · refine hexRecordError_of_ok ?_ ((hexRecordOk_iff_sum r s).2 hsum)
    obtain heof | ⟨haddress, hzero⟩ := hkind
    · exact supported_of_eof heof
    · exact supported_of_addressZero haddress hzero

/-! ### The encoder's records -/

theorem hexRecordOf_wellFormed {payload : List Byte} (h : payload.length < 256) (kind : Byte) (address : BitVec 16) :
    (hexRecordOf kind address payload).wellFormed = true :=
  beq_iff_eq.2 (Nat.mod_eq_of_lt h)

theorem hexRecordOk_hexRecordOf (kind : Byte) (address : BitVec 16) (payload : List Byte) (s : State) :
    hexRecordOk (hexRecordOf kind address payload) s = true := (hexRecordOk_iff_twos8 ..).2 rfl

/-- A data record stands at the start address plus the bytes of the records before it. -/
theorem getElem?_dataRecords (a : Nat) (ps : List (List Byte)) (k : Nat) :
    (dataRecords a ps)[k]? =
      ps[k]?.map fun p => hexRecordOf 0x00#8 (BitVec.ofNat 16 (a + (ps.take k).flatten.length)) p := by
  induction ps generalizing a k with
  | nil => rfl
  | cons p ps ih =>
    cases k with
    | zero => rfl
    | succ k => simp [dataRecords, ih, Nat.add_assoc]

theorem mem_dataRecords {a : Nat} {ps : List (List Byte)} {r : HexRecord} (h : r ∈ dataRecords a ps) :
    ∃ p ∈ ps, ∃ address, r = hexRecordOf 0x00#8 address p := by
  obtain ⟨k, hk⟩ := List.mem_iff_getElem?.1 h
  rw [getElem?_dataRecords] at hk
  obtain ⟨p, hp, hr⟩ := Option.map_eq_some_iff.1 hk
  exact ⟨p, List.mem_of_getElem? hp, _, hr.symm⟩

theorem flatMap_payload_dataRecords (a : Nat) (ps : List (List Byte)) :
    (dataRecords a ps).flatMap HexRecord.payload = ps.flatten := by
  induction ps generalizing a with
  | nil => rfl
  | cons p ps ih => rw [dataRecords, List.flatMap_cons, ih, List.flatten_cons]; rfl

/-- While 16 bytes are left, the next data record holds them, at 16 times its position. -/
theorem dataRecord_of_full_piece {image : List Byte} {k : Nat} (h : k < image.length / 16) :
    ∃ r, (dataRecords 0 (pieces 16 image))[k]? = some r ∧ r.payload.length = 16 ∧ r.address = BitVec.ofNat 16 (16 * k) := by
  have hfull : 16 * k + 16 ≤ image.length := by omega
  refine ⟨hexRecordOf 0x00#8 (BitVec.ofNat 16 (16 * k)) ((image.drop (16 * k)).take 16), ?_, ?_, rfl⟩
  · rw [getElem?_dataRecords, getElem?_pieces (by decide), if_pos (by omega), flatten_take_pieces (by decide),
      List.length_take_of_le (by omega), Nat.zero_add]
    rfl
  · exact List.length_take_of_le (by rw [List.length_drop]; omega)

/-- Every record of the output is one that the encoder built over a payload that `LL` can count. -/
theorem mem_hexOutput {image : List Byte} {r : HexRecord} (h : r ∈ hexOutput image) :
    ∃ kind address payload, payload.length < 256 ∧ r = hexRecordOf kind address payload := by
  simp only [hexOutput, List.mem_append, List.mem_cons, List.not_mem_nil, or_false] at h
  obtain (rfl | hdata) | rfl := h
  · exact ⟨_, _, _, by decide, rfl⟩
  · obtain ⟨p, hp, address, rfl⟩ := mem_dataRecords hdata
    have hlength := length_le_of_mem_pieces (by decide) hp
    exact ⟨_, _, p, by omega, rfl⟩
  · exact ⟨_, _, _, by decide, rfl⟩

/-- Settles O47: the two fixed records are evaluated, the data records are the pieces of the image in order, and a record that
the encoder built passes its check by its construction. -/
theorem hexOutputRecordsPassTheirCheck : Obligations.HexOutputRecordsPassTheirCheck := by
  refine ⟨by decide, by decide, fun image => ⟨dataRecords 0 (pieces 16 image), rfl, ?_, fun r hr => ?_,
    fun k hk => dataRecord_of_full_piece hk, fun r hr => ?_⟩⟩
  · rw [flatMap_payload_dataRecords, flatten_pieces (by decide)]
  · obtain ⟨p, -, address, rfl⟩ := mem_dataRecords hr
    rfl
  · obtain ⟨kind, address, payload, hlength, rfl⟩ := mem_hexOutput hr
    exact ⟨hexRecordOf_wellFormed hlength kind address, hexRecordOk_hexRecordOf kind address payload⟩

end Sys2Proof.HexRecords
end

section
/-! VERIFY (spec 45_composite_sequences R70, R71, R76; 93_implementation_defined U6): the frame that a host builds for an image,
the range of the flash that a device takes the CRC of, and which VERIFY frames a host sends. -/

namespace Sys2Proof.Verify

open Sys2Proof.Machine Sys2Proof.CrcAlgebra Sys2Proof.CrcSequence Sys2Proof.ControlStatus

/-! ### The host's frame -/

/-- The two address bytes of a frame, high byte first, make the address (45_composite_sequences R69). -/
theorem addressBytes_toNat {a : Nat} (h : a < 65536) :
    (hiByte (BitVec.ofNat 16 a)).toNat * 256 + (loByte (BitVec.ofNat 16 a)).toNat = a := by
  rw [hiByte_toNat, loByte_toNat, BitVec.toNat_ofNat, Nat.mod_eq_of_lt h, Nat.div_add_mod']

/-- Settles O48: byte 0 of the deferred image is 0xFF whatever it was, and the frame's bytes are written out. -/
theorem verifyFrameCarriesTheDeferredImageCrc : Obligations.VerifyFrameCarriesTheDeferredImageCrc := by
  intro b bs s hlength
  have hread := bytesReturned_crc16OnEngine (0xFF#8 :: bs) s
  exact ⟨(crc16 (0xFF#8 :: bs)).1, (crc16 (0xFF#8 :: bs)).2, loByte (BitVec.ofNat 16 bs.length),
    hiByte (BitVec.ofNat 16 bs.length), hread, hread, rfl, addressBytes_toNat hlength, rfl⟩

/-! ### The device's range -/

/-- The bytes of the flash from `first` to `last`, both included (45_composite_sequences R71). -/
def flashRange (flash : List Byte) (first last : BitVec 16) : List Byte :=
  (flash.drop first.toNat).take (last.toNat + 1 - first.toNat)

theorem deviceConfirms_verifyPayload (flash : List Byte) (first last : BitVec 16) (crc : Byte × Byte) :
    deviceConfirms flash (verifyPayload first last crc) =
      if first.toNat ≤ last.toNat ∧ last.toNat < flash.length then some (crc16 (flashRange flash first last) == crc)
      else none := by
  simp only [deviceConfirms, verifyPayload, joinBytes_hiByte_loByte, memRead]
  by_cases hle : first.toNat ≤ last.toNat
  · have hend : first.toNat + (last.toNat + 1 - first.toNat) ≤ flash.length ↔ last.toNat < flash.length := by omega
    by_cases hlast : last.toNat < flash.length <;> simp [hle, hend, hlast, flashRange]
  · simp [hle]

/-- The device's verdict is given exactly for a range of its flash (91_not_in_source N6). -/
theorem isSome_deviceConfirms_verifyPayload (flash : List Byte) (first last : BitVec 16) (crc : Byte × Byte) :
    (deviceConfirms flash (verifyPayload first last crc)).isSome =
      decide (first.toNat ≤ last.toNat ∧ last.toNat < flash.length) := by
  rw [deviceConfirms_verifyPayload]
  split
  next h => exact (decide_eq_true h).symm
  next h => exact (decide_eq_false h).symm

/-- The residue after the bytes and a supplied CRC is zero exactly for their own CRC (40_crc R55). -/
theorem crcFeed_append_eq_zero_iff (m : List Byte) (crc : Byte × Byte) :
    crcFeed 0x0000#16 (m ++ [crc.1, crc.2]) = 0x0000#16 ↔ crc16 m = crc := by
  rw [residueZeroOnlyForTheRightCrc, ← append_crc16, Encoding.append_inj_iff, Prod.ext_iff]

/-- Settles O49: the verdict on the range, the CRC read from the engine, the residue that is zero for that CRC alone, and the
confirmation byte that is 64 where the verdict is true. -/
theorem deviceVerifyConfirmsTheRangeCrc : Obligations.DeviceVerifyConfirmsTheRangeCrc := by
  intro flash first last crc s hle hlast
  have hlength : (flashRange flash first last).length = last.toNat + 1 - first.toNat :=
    List.length_take_of_le (by rw [List.length_drop]; omega)
  have hverdict : deviceConfirms flash (verifyPayload first last crc) = some (crc16 (flashRange flash first last) == crc) := by
    rw [deviceConfirms_verifyPayload, if_pos ⟨hle, hlast⟩]
  refine ⟨flashRange flash first last, hlength, fun k hk => ?_, hverdict, bytesReturned_crc16OnEngine _ s, ?_, fun sent => ?_⟩
  · rw [flashRange, List.getElem?_take_of_lt (hlength ▸ hk), List.getElem?_drop]
  · obtain ⟨b, hread, hflag⟩ := rdStat_after_crcFeed (flashRange flash first last ++ [crc.1, crc.2]) s
    refine ⟨b, hread, ?_⟩
    rw [Bool.eq_iff_iff, hflag, crcFeed_append_eq_zero_iff, beq_iff_eq]
  · exact (deviceChannel_eq_confirmed_iff ((verifyVerdict_frame ..).trans hverdict) sent).trans beq_iff_eq

/-! ### What the host sends -/

theorem sendable_verify (size : Nat) (first last : BitVec 16) (crc : Byte × Byte) :
    sendable size (frame .verify (verifyPayload first last crc)) =
      decide (first.toNat ≤ last.toNat ∧ last.toNat < size) := by
  rw [Bool.decide_and]
  simp [sendable, frame, verifyPayload]

end Sys2Proof.Verify
end

section
/-! The read-back search (spec 45_composite_sequences R73, R74; 93_implementation_defined U6): candidates are tried in order, and
over a channel that confirms one candidate only the search ends there. -/

namespace Sys2Proof.ReadBack

open Sys2Proof.Machine Sys2Proof.CrcAlgebra Sys2Proof.Verify

/-! ### The candidates -/

theorem length_candidates : candidates.length = 256 := by simp [candidates]

/-- The candidates up to a byte are as many as the byte's value, and none of them is the byte. -/
theorem exists_candidates_split (k : Byte) :
    ∃ before after, candidates = before ++ k :: after ∧ before.length = k.toNat ∧ k ∉ before := by
  have hk := k.isLt
  have hsplit : List.range 256 = List.range k.toNat ++ k.toNat :: List.range' (k.toNat + 1) (255 - k.toNat) := by
    have hcount : 256 = k.toNat + (255 - k.toNat + 1) := by omega
    rw [List.range_eq_range', hcount, ← List.range'_append_1, Nat.zero_add, List.range'_succ, ← List.range_eq_range']
  refine ⟨(List.range k.toNat).map (BitVec.ofNat 8), (List.range' (k.toNat + 1) (255 - k.toNat)).map (BitVec.ofNat 8), ?_,
    by simp, ?_⟩
  · rw [candidates, hsplit, List.map_append, List.map_cons, BitVec.ofNat_toNat, BitVec.setWidth_eq]
  · simp only [List.mem_map, List.mem_range, not_exists, not_and]
    intro j hj heq
    rw [← heq, BitVec.toNat_ofNat] at hj
    omega

theorem sendable_candidateFrame (size : Nat) (a : BitVec 16) (k : Byte) :
    sendable size (candidateFrame a k) = decide (a.toNat < size) := by
  simp [candidateFrame, sendable_verify]

/-! ### The search -/

section Search

variable {size : Nat} {channel : Channel} {a : BitVec 16}

/-- Candidates that are never confirmed cost one attempt each. -/
theorem searchCandidates_append (ha : a.toNat < size) {before : List Byte}
    (hbefore : ∀ j ∈ before, ∀ n, channel n (candidateFrame a j) ≠ Config.confirmed) (sent : Nat) (ks : List Byte) :
    searchCandidates size channel a sent (before ++ ks) = searchCandidates size channel a (sent + before.length) ks := by
  induction before generalizing sent with
  | nil => rfl
  | cons j js ih =>
    obtain ⟨hj, hjs⟩ := List.forall_mem_cons.1 hbefore
    have hsend : sendable size (candidateFrame a j) = true := by simp [sendable_candidateFrame, ha]
    rw [List.cons_append, searchCandidates_unconfirmed _ hsend (hj sent), ih hjs, List.length_cons, Nat.add_assoc,
      Nat.add_comm 1]

theorem readBackByte_of_none_confirmed (ha : a.toNat < size)
    (hnone : ∀ n j, channel n (candidateFrame a j) ≠ Config.confirmed) (sent : Nat) :
    readBackByte size channel a sent = (.error (.raised .noPossibleMatch), sent + 256) := by
  have hall := searchCandidates_append ha (before := candidates) (fun j _ n => hnone n j) sent []
  rwa [List.append_nil, length_candidates] at hall

/-- Over a channel that confirms one candidate only, the search ends there (45_composite_sequences R73). -/
theorem readBackByte_of_one_confirmed (ha : a.toNat < size) {k : Byte}
    (hone : ∀ n j, channel n (candidateFrame a j) = Config.confirmed ↔ j = k) (sent : Nat) :
    readBackByte size channel a sent = (.ok k, sent + k.toNat + 1) := by
  obtain ⟨before, after, hcandidates, hlength, hfirst⟩ := exists_candidates_split k
  have hbefore : ∀ j ∈ before, ∀ n, channel n (candidateFrame a j) ≠ Config.confirmed :=
    fun j hj n h => hfirst ((hone n j).1 h ▸ hj)
  have hsend : sendable size (candidateFrame a k) = true := by simp [sendable_candidateFrame, ha]
  rw [readBackByte, hcandidates, searchCandidates_append ha hbefore,
    searchCandidates_confirmed after hsend ((hone _ k).2 rfl), hlength]

/-- A read-back from an address past the flash stops before its first frame (93_implementation_defined U6). -/
theorem readBackByte_off_flash (ha : size ≤ a.toNat) (sent : Nat) :
    readBackByte size channel a sent = (.error (.refusesToSend (candidateFrame a 0x00#8)), sent) := by
  obtain ⟨before, after, hcandidates, hlength, -⟩ := exists_candidates_split 0x00#8
  have hfirst : candidates = 0x00#8 :: after := by rw [hcandidates, List.eq_nil_of_length_eq_zero hlength, List.nil_append]
  have hsend : sendable size (candidateFrame a 0x00#8) = false := by simp [sendable_candidateFrame, ha]
  rw [readBackByte, hfirst, searchCandidates, hsend]
  rfl

/-! ### Several bytes -/

theorem readBack_succ_of_error {sent tries : Nat} {e : HostStop}
    (h : readBackByte size channel a sent = (.error e, tries)) (n : Nat) :
    readBack size channel a sent (n + 1) = (.error e, tries) := by
  simp [readBack, h]

theorem readBack_succ_of_ok {sent tries total n : Nat} {b : Byte} {bs : List Byte}
    (h : readBackByte size channel a sent = (.ok b, tries))
    (hrest : readBack size channel (a + 1#16) tries n = (.ok bs, total)) :
    readBack size channel a sent (n + 1) = (.ok (b :: bs), total) := by
  simp [readBack, h, hrest]

end Search

/-- Settles O51: no candidate is confirmed at the first address, or the same one at every address, by induction on the number
of bytes. -/
theorem readBackTriesEveryCandidateInOrder : Obligations.ReadBackTriesEveryCandidateInOrder := by
  refine ⟨fun size channel a sent n ha hnone =>
    readBack_succ_of_error (readBackByte_of_none_confirmed ha (fun k j => hnone k _) sent) n, ?_⟩
  intro size channel k a sent n hsize hspace hone
  induction n generalizing a sent with
  | zero => simp [readBack]
  | succ n ih =>
    have hnext : (a + 1#16).toNat ≤ a.toNat + 1 := by
      rw [BitVec.toNat_add]
      exact Nat.mod_le _ _
    have hbyte := readBackByte_of_one_confirmed (channel := channel) (size := size) (a := a) (by omega) (hone · a) sent
    rw [readBack_succ_of_ok hbyte (ih (a + 1#16) _ (by omega) (by omega)), List.replicate_succ, Nat.succ_mul]
    congr 1
    omega

/-! ### The true byte -/

/-- The device's VERIFY of one byte confirms the candidate that is the byte, and no other (40_crc R54). -/
theorem deviceConfirms_candidate {flash : List Byte} {a : BitVec 16} {b : Byte} (hb : flash[a.toNat]? = some b) (k : Byte) :
    deviceConfirms flash ((candidateFrame a k).drop 3) = some (decide (k = b)) := by
  obtain ⟨hdistinct, -, -⟩ := singleByteCrcsAreDistinct
  obtain ⟨ha, hbyte⟩ := List.getElem?_eq_some_iff.1 hb
  have hrange : flashRange flash a a = [b] := by
    rw [flashRange, Nat.add_sub_cancel_left, List.drop_eq_getElem_cons ha, hbyte]
    rfl
  have hcrc : crc16 [b] = crc16 [k] ↔ k = b :=
    ⟨fun heq => (not_imp_not.1 (hdistinct b k) heq).symm, fun heq => heq ▸ rfl⟩
  calc deviceConfirms flash ((candidateFrame a k).drop 3)
    _ = some (crc16 (flashRange flash a a) == crc16 [k]) :=
      (deviceConfirms_verifyPayload flash a a (crc16 [k])).trans (if_pos ⟨le_rfl, ha⟩)
    _ = some (decide (k = b)) := by rw [hrange, beq_eq_decide, decide_eq_decide.2 hcrc]

/-- Settles O50: the CRC of one byte tells it from every other, so the true byte is the one candidate confirmed. -/
theorem readBackRecoversTheTrueByte : Obligations.ReadBackRecoversTheTrueByte := by
  intro flash a b sent hb
  obtain ⟨ha, -⟩ := List.getElem?_eq_some_iff.1 hb
  have hverdict := deviceConfirms_candidate hb
  have hanswer (channel : Channel)
      (h : ∀ n k, channel n (candidateFrame a k) = 64#8 ↔ decide (k = b) = true) :
      readBackByte flash.length channel a sent = (.ok b, sent + b.toNat + 1) ∧
        ∀ n k, channel n (candidateFrame a k) = 64#8 ↔ k = b := by
    simp only [decide_eq_true_iff] at h
    exact ⟨readBackByte_of_one_confirmed ha h sent, h⟩
  refine ⟨fun channel h => hanswer channel fun n k => ?_, hanswer (deviceChannel flash) fun n k => ?_⟩
  · rw [h, hverdict, Option.some_inj]
  · exact deviceChannel_eq_confirmed_iff ((verifyVerdict_frame ..).trans (hverdict k)) n

end Sys2Proof.ReadBack
end

section
/-! The flash driver (spec 45_composite_sequences R69, R72, R76; 60_exceptions R82; 93_implementation_defined U6): the frames of
an image, and where the driver stops. -/

namespace Sys2Proof.FlashDriver

open Sys2Proof.Machine Sys2Proof.Pieces Sys2Proof.Verify Sys2Proof.ReadBack

/-! ### The driver over its frames -/

section Driver

variable {size sent : Nat} {channel : Channel} {before : List (List Byte)}

/-- Frames that are sent and confirmed are done with, and the driver goes on. -/
theorem sendFrames_append
    (h : ∀ k f, before[k]? = some f → sendable size f = true ∧ channel (sent + k) f = Config.confirmed)
    (after : List (List Byte)) :
    sendFrames size channel sent (before ++ after) = sendFrames size channel (sent + before.length) after := by
  induction before generalizing sent with
  | nil => rfl
  | cons f fs ih =>
    obtain ⟨hsend, hconfirmed⟩ : sendable size f = true ∧ channel sent f = Config.confirmed := h 0 f rfl
    have hrest : ∀ k g, fs[k]? = some g → sendable size g = true ∧ channel (sent + 1 + k) g = Config.confirmed := by
      intro k g hg
      rw [Nat.add_assoc, Nat.add_comm 1]
      exact h (k + 1) g hg
    rw [List.cons_append, sendFrames_confirmed _ hsend hconfirmed, ih hrest, List.length_cons, Nat.add_assoc,
      Nat.add_comm 1]

/-- A frame that is sent and not confirmed stops the driver with the error of its command (60_exceptions R82). -/
theorem sendFrames_unconfirmed {c : Command} {payload : List Byte} (hsend : sendable size (frame c payload) = true)
    (hconfirmed : channel sent (frame c payload) ≠ Config.confirmed) (after : List (List Byte)) :
    sendFrames size channel sent (frame c payload :: after) =
      (.error (.raised (if c = .verify then .checksumMismatch else .unconfirmedResponse)), sent + 1) := by
  have hcommand : (frame c payload)[2]? = some Command.verify.code ↔ c = .verify := by
    cases c <;> simp [frame, Command.code]
  rw [sendFrames, hsend, if_neg hconfirmed, if_congr hcommand rfl rfl]
  rfl

end Driver

/-- Settles O53: the confirmed frames are passed, and then none is left or the next one is not confirmed. -/
theorem firstUnconfirmedFrameStopsTheDriver : Obligations.FirstUnconfirmedFrameStopsTheDriver := by
  refine ⟨fun size channel sent fs h => ?_, fun size channel sent pre post c payload h hsend hconfirmed => ?_⟩
  · have hall := sendFrames_append h []
    rwa [List.append_nil] at hall
  · rw [sendFrames_append h, sendFrames_unconfirmed hsend hconfirmed]

/-- Settles O57: the host sends exactly the VERIFY frames that the device has a verdict on, the driver passes the confirmed
frames and stops before one that is not sent, and the read-back stops before its first. -/
theorem hostRefusesVerifyOffTheFlash : Obligations.HostRefusesVerifyOffTheFlash := by
  refine ⟨fun flash first last crc => ⟨sendable_verify _ first last crc,
      isSome_deviceConfirms_verifyPayload flash first last crc⟩,
    fun size channel sent pre post first last crc h hoff => ?_,
    fun size channel a sent n ha => readBack_succ_of_error (readBackByte_off_flash ha sent) n⟩
  have hsend : sendable size (frame .verify (verifyPayload first last crc)) = false := by
    rw [sendable_verify, decide_eq_false_iff_not]
    omega
  rw [sendFrames_append h, sendFrames_not_sendable channel _ post hsend]

/-! ### The frames of an image -/

theorem toFrames_cons (b : Byte) {bs : List Byte} (h : bs.length < 65536) (verify autorun : Bool) :
    toFrames (b :: bs) verify autorun =
      some ([setupFrame] ++ pageFrames 0 (pieces Config.pageSize (0xFF#8 :: bs)) ++
        (if verify then [verifyFrame (b :: bs)] else []) ++ [commitFrame b] ++ (if autorun then [runFrame] else [])) :=
  if_neg (by rw [List.length_cons]; omega)

theorem getElem?_pageFrames (a : Nat) (ps : List (List Byte)) (k : Nat) :
    (pageFrames a ps)[k]? = ps[k]?.map (pageFrame (a + Config.pageSize * k)) := by
  induction ps generalizing a k with
  | nil => rfl
  | cons p ps ih =>
    cases k with
    | zero => rfl
    | succ k =>
      rw [pageFrames, List.getElem?_cons_succ, ih, List.getElem?_cons_succ, Nat.mul_succ, Nat.add_assoc,
        Nat.add_comm Config.pageSize]

theorem length_pageFrames (a : Nat) (ps : List (List Byte)) : (pageFrames a ps).length = ps.length := by
  induction ps generalizing a with
  | nil => rfl
  | cons p ps ih => rw [pageFrames, List.length_cons, ih, List.length_cons]

/-- A page frame's bytes (45_composite_sequences R69, R72). -/
theorem pageFrame_eq (a : Nat) (page : List Byte) :
    pageFrame a page = [0x24#8, BitVec.ofNat 8 page.length + 3#8, if a % 512 = 0 then 0x32#8 else 0x33#8,
      hiByte (BitVec.ofNat 16 a), loByte (BitVec.ofNat 16 a)] ++ page := by
  have hlength : BitVec.ofNat 8 (page.length + 3) = BitVec.ofNat 8 page.length + 3#8 := BitVec.ofNat_add ..
  rw [← hlength, pageFrame, frame, apply_ite Command.code]
  rfl

/-- There are as many pages as it takes to hold the image, the last one maybe shorter. -/
theorem length_pages (image : List Byte) : (pieces 128 image).length = (image.length + 127) / 128 := by
  refine eq_of_forall_lt_iff fun k => ?_
  rw [lt_length_pieces_iff (by decide)]
  omega

/-- Settles O52: the pages are the pieces of the deferred image, each in its frame. -/
theorem frameSequenceHasItsOrderAndCount : Obligations.FrameSequenceHasItsOrderAndCount := by
  refine ⟨fun b bs verify autorun hlength => ⟨pageFrames 0 (pieces Config.pageSize (0xFF#8 :: bs)),
    toFrames_cons b hlength verify autorun, ?_, fun k hk => ?_⟩, by decide⟩
  · rw [length_pageFrames]
    exact length_pages (0xFF#8 :: bs)
  · rw [length_pageFrames] at hk
    have hpage : 128 * k < (0xFF#8 :: bs).length := (lt_length_pieces_iff (by decide) _ k).1 hk
    refine ⟨hiByte (BitVec.ofNat 16 (128 * k)), loByte (BitVec.ofNat 16 (128 * k)), addressBytes_toNat ?_, ?_⟩
    · rw [List.length_cons] at hpage
      omega
    · rw [getElem?_pageFrames, Config.pageSize, getElem?_pieces (by decide), if_pos hpage, Option.map_some, pageFrame_eq,
        Nat.zero_add]

end Sys2Proof.FlashDriver
end

section
/-! Which words stop the model, with what reason, and where (spec 60_exceptions R78, R80, R81): the reason as a test of the
word's fields, the step on a legal and on a reserved word, and a run that meets a reserved word. -/

namespace Sys2Proof.ReservedWords

open Sys2Proof.Machine Sys2Proof.Safety Sys2Proof.StepFacts

/-! ### The reason -/

/-- Offset 7 alone has no register (10_state R22). -/
theorem registerAt_eq_none_iff : ∀ a : Offset, registerAt a = none ↔ a = 7#3 := by decide

theorem eq_offset_of_mem_registerAt : ∀ a : Offset, ∀ r ∈ registerAt a, a = r.offset := by decide

/-- The wrong directions are the reads of CTRL, CRCIN and CHKIN and the writes of CHKOUT and STAT (10_state section 2). -/
theorem directionLegal_eq_false_iff (write : Bool) (r : Register) : directionLegal write r = false ↔
    (write = false ∧ r.offset ∈ [0#3, 1#3, 4#3]) ∨ (write = true ∧ r.offset ∈ [5#3, 6#3]) := by
  cases r <;> revert write <;> decide

theorem refusalReason_eq (w : TxnWord) : refusalReason w =
    if fieldA w = 7#3 then .reservedOffset w
    else if (fieldW w = false ∧ fieldA w ∈ [0#3, 1#3, 4#3]) ∨ (fieldW w = true ∧ fieldA w ∈ [5#3, 6#3]) then
      .wrongDirection w
    else .reservedCtrlBits w := by
  unfold refusalReason
  cases hr : registerAt (fieldA w) with
  | none => exact (if_pos ((registerAt_eq_none_iff _).1 hr)).symm
  | some r =>
    have hnamed : fieldA w ≠ 7#3 := fun h => by simp [(registerAt_eq_none_iff _).2 h] at hr
    rw [if_neg hnamed, eq_offset_of_mem_registerAt _ r hr]
    simp only [← directionLegal_eq_false_iff]
    cases directionLegal (fieldW w) r <;> rfl

/-- Settles O13: a word of no row is refused for `refusalReason`, which looks at the register and the direction that the
word's fields name. -/
theorem refusalReasonFollowsThePriority : Obligations.RefusalReasonFollowsThePriority := fun w hno =>
  (ControlStatus.decode_eq_error_iff w _).2 ⟨not_exists.2 hno, (refusalReason_eq w).symm⟩

/-! ### One step -/

/-- Settles O19: the decoder answers well-formed transactions only, which complete, and a word it refuses is refused by the
step. -/
theorem everyLegalTransactionCompletes : Obligations.EveryLegalTransactionCompletes := by
  refine ⟨fun i s h => exec_of_wellFormed h s, fun s w rest hp => ?_⟩
  cases hd : decode w with
  | ok i =>
    obtain ⟨t, ht⟩ := exec_of_wellFormed (wellFormed_of_decode hd) s
    simp [step_transaction hp hd, ht]
  | error why => simp [step_reserved hp hd]

/-! ### Runs -/

theorem run_add_of_next {m : Nat} {s t : State} (h : run m s = .next t) (n : Nat) : run (m + n) s = run n t := by
  induction m generalizing s with
  | zero => cases h; rw [Nat.zero_add]
  | succ m ih =>
    obtain ⟨u, hu, hrun⟩ := run_succ_next h
    rw [Nat.add_right_comm, run_succ_of_step hu, ih hrun]

/-- A run that goes on went on after each smaller number of steps. -/
theorem run_next_of_le {m n : Nat} (hmn : m ≤ n) {s t : State} (h : run n s = .next t) : ∃ u, run m s = .next u := by
  induction n generalizing m s with
  | zero => exact ⟨s, by rw [Nat.le_zero.1 hmn]; rfl⟩
  | succ n ih =>
    cases m with
    | zero => exact ⟨s, rfl⟩
    | succ m =>
      obtain ⟨v, hv, hrun⟩ := run_succ_next h
      rw [run_succ_of_step hv]
      exact ih (Nat.le_of_succ_le_succ hmn) hrun

/-- Settles O23: the legal words run to their end, which leaves the reserved word next and counts their number; the step on
it is refused, and a refused run stays refused. -/
theorem reservedWordStopsTheRunAtItsIndex : Obligations.ReservedWordStopsTheRunAtItsIndex := by
  intro is w why rest s hwf hd hp
  obtain ⟨t, -, hrun⟩ := RunProgram.runPerformsTheProgramInOrder is (.transaction w :: rest) s hwf hp
  refine ⟨fun n hn => run_next_of_le hn hrun, fun n => ?_⟩
  rw [Nat.add_assoc, run_add_of_next hrun, Nat.add_comm 1]
  exact run_succ_of_refused (step_reserved rfl hd) n

end Sys2Proof.ReservedWords
end

section
/-! Reset and the clears (spec 70_reset_and_hazards R89 to R92): what reads alone return from every state; the start value of a
message shows in what the message leaves, so only the clear value gives the message's own; and `WR CTRL, 0x03` against reset. -/

namespace Sys2Proof.ResetAndClears

open Sys2Proof.Machine Sys2Proof.Safety Sys2Proof.StepFacts Sys2Proof.Idempotency Sys2Proof.CrcAlgebra
open Sys2Proof.CrcChannel Sys2Proof.ChkChannel Sys2Proof.ControlStatus Sys2Proof.CrcSequence

/-! ### Reads alone -/

/-- Reads change neither channel, so each answers from the channels as they were at first (30_encoding R36). -/
theorem perform_reads {is : List Instr} (h : ∀ i ∈ is, isRead i = true) (s : State) :
    perform is s = .next { s with returned := s.returned ++ is.flatMap (answerOf s.crc s.sum) } := by
  induction is generalizing s with
  | nil => rw [List.flatMap_nil, List.append_nil]; rfl
  | cons i is ih =>
    obtain ⟨hi, his⟩ := List.forall_mem_cons.1 h
    obtain ⟨answer, hexec, -⟩ := exec_of_isRead hi
    have hanswer : [answer s] = answerOf s.crc s.sum i := List.append_cancel_left (exec_returned (hexec s))
    rw [perform_cons_of_exec (hexec s), ih his, List.flatMap_cons, ← hanswer, ← List.append_assoc]
    rfl

theorem bytesReturned_reads {is : List Instr} (h : ∀ i ∈ is, isRead i = true) (s : State) :
    bytesReturned is s = some (is.flatMap (answerOf s.crc s.sum)) := by
  rw [bytesReturned_of_perform (perform_reads h _), List.nil_append]

/-- The four readable registers where both channels hold their clear values (70_reset_and_hazards R90). -/
theorem bytesReturned_registers_of_clear {s : State} (hcrc : s.crc = 0x0000#16) (hsum : s.sum = 0x00#8) :
    bytesReturned [.rdCrchi, .rdCrclo, .rdChkout, .rdStat] s = some [0x00#8, 0x00#8, 0x00#8, 0x03#8] := by
  rw [bytesReturned_reads (by decide), hcrc, hsum]
  rfl

theorem bytesReturned_crc_sum (s : State) :
    bytesReturned [.rdCrchi, .rdCrclo, .rdChkout] s = some [hiByte s.crc, loByte s.crc, twos8 s.sum] := by
  rw [bytesReturned_reads (by decide), hiByte_eq_ofNat, loByte_eq_ofNat, twos8_eq_ofNat]
  rfl

/-! ### The start value of a message -/

/-- A fold whose every step loses nothing of the value carried loses nothing of its start value. -/
theorem foldl_injective {α β : Type} {f : α → β → α} (hf : ∀ b, Function.Injective fun a => f a b) (m : List β) :
    Function.Injective fun a => m.foldl f a := by
  induction m with
  | nil => exact Function.injective_id
  | cons b m ih => exact ih.comp (hf b)

theorem crcStep_injective (b : Byte) : Function.Injective fun c => crcStep c b := fun _ _ h =>
  (BitVec.xor_left_inj (crcOperand b)).1 (crcShifts_injective 8 h)

theorem crcFeed_eq_crcFeed_iff (c₁ c₂ : CrcWord) (m : List Byte) : crcFeed c₁ m = crcFeed c₂ m ↔ c₁ = c₂ :=
  (foldl_injective crcStep_injective m).eq_iff

theorem sumFeed_eq_sumFeed_iff (v₁ v₂ : Byte) (m : List Byte) : sumFeed v₁ m = sumFeed v₂ m ↔ v₁ = v₂ :=
  (foldl_injective add_left_injective m).eq_iff

theorem twos8_eq_twos8_iff (v₁ v₂ : Byte) : twos8 v₁ = twos8 v₂ ↔ v₁ = v₂ := by
  rw [twos8_eq_neg, twos8_eq_neg, neg_inj]

/-- Settles O39: neither channel's message nor `twos8` loses anything of the start value; the CRC sequence clears the register
first, and reads answer from the state as it is, whatever was drawn. -/
theorem onlyAClearedChannelGivesTheMessageValue : Obligations.OnlyAClearedChannelGivesTheMessageValue := by
  refine ⟨fun c => crcFeed_eq_crcFeed_iff c 0x0000#16, fun v m => ?_,
    fun c v m => bytesReturned_crc16OnEngine m (State.powerUp c v), fun c v => bytesReturned_crc_sum (State.powerUp c v)⟩
  rw [twos8_eq_twos8_iff, sumFeed_eq_sumFeed_iff]

/-! ### The reset state -/

/-- Settles O16: the reset event and the reset state both leave the two clear values, which fix the four reads; the values of
the empty message are the CRC of no zero byte and a fixed point of `twos8`. -/
theorem resetEventClearsBothChannels : Obligations.ResetEventClearsBothChannels := by
  refine ⟨fun s rest hp => ?_, State.reset_crc, State.reset_sum,
    bytesReturned_registers_of_clear State.reset_crc State.reset_sum, crc16_replicate_zero 0,
    (twos8_eq_self_iff 0x00#8).2 (.inl rfl)⟩
  exact ⟨_, step_resetInput hp, s.takeReset_crc, s.takeReset_sum,
    bytesReturned_registers_of_clear s.takeReset_crc s.takeReset_sum⟩

/-- Settles O18: both clear bits are set and no reserved one, so both channels take the values that reset gives them. -/
theorem clearingBothReachesTheResetState : Obligations.ClearingBothReachesTheResetState := by
  intro s
  refine ⟨_, exec_wrCtrl_of_clear (by decide) s, ?_⟩
  rw [clearCrcIf_clearSumIf]
  rfl

end Sys2Proof.ResetAndClears
end
